-- ==== Sys2Proof/Word.lean ====
section
/-! DEFINITION. The word types of the machine (00_scope.md R5, R6: registers, addresses and instruction words
are 32-bit vectors, bit 0 the least significant). -/

namespace Sys2Proof

/-- A 32-bit register value, virtual or physical address, or instruction word. -/
abbrev Word := BitVec 32

/-- A 16-bit MIPS16e instruction halfword or immediate field. -/
abbrev Half := BitVec 16

/-- One byte of memory. -/
abbrev Byte := BitVec 8

/-- The number of a general register, as the 5-bit rs, rt and rd fields hold it (R21). -/
abbrev Reg := BitVec 5

/-- The 3-bit register field rx of a MIPS16e instruction (R104). -/
abbrev Reg3 := BitVec 3

end Sys2Proof
end

