-- ==== Sys2Proof/Config.lean ====
section
/-! DEFINITION. What an implementation fixes: the vectors, the open parameters of 00_scope.md R5 as data
(`Platform`), and the FREE VALUES, opaque constants that nothing can evaluate, for what the spec leaves open. -/

namespace Sys2Proof

/-- The coprocessor 0 registers of the inventory (10_state.md R30). -/
inductive CpReg where
  | hwrena | badVAddr | count | compare | status | intCtl | srsCtl | srsMap | cause | epc
  | prid | ebase | config | config1 | config2 | config3 | llAddr | debug | depc | errorEpc | desave
  deriving DecidableEq, Repr

namespace Config

/-- `ResetVector` (R5, R51). -/
def resetVector : Word := 0xBFC00000

/-- `BEVBase`, the exception base while Status.BEV = 1 (R5, R356). -/
def bevBase : Word := 0xBFC00200

/-- `DebugVector` (R5, R367). -/
def debugVector : Word := 0xBFC00480

/-- The debug exception vector when the probe has set ProbTrap (R367). -/
def probeDebugVector : Word := 0xFF200200

/-- What a free value is used for. Two uses, or two times, have nothing to do with each other. -/
inductive FreeUse where
  | divLo | divHi                 -- the pair after a division without a defined result (R193)
  | causeCE                       -- Cause.CE after an exception other than CpU (R351)
  | countRead | llAddrRead        -- reads of Count and of register 17 (R302)
  | absentCp0                     -- a read of a coprocessor 0 register that is not there (R47, log 5)
  | view (r : CpReg)              -- whether an unbarriered write of r is seen (R405, log 2)
  | fetchView                     -- whether the fetch sees an unbarriered change of mode (R406, log 2)
  | textView                      -- whether the fetch sees an unbarriered store (R406, log 6)
  deriving DecidableEq, Repr

/-- FREE VALUE: a word the spec does not fix, for a use and a time (the count of steps). It has no body:
nothing can be proved of it, so a claim holds whatever it is (log 25). -/
opaque freeWord (use : FreeUse) (time : Nat) : Word

/-- FREE VALUE: a choice between two outcomes, the low bit of a free word. -/
def freeBit (use : FreeUse) (time : Nat) : Bool := (freeWord use time).getLsbD 0

end Config

/-- What `MemMap` says of a place: plain memory, memory that admits reads and no writes, or a device whose
behaviour the spec does not give (20_memory.md R64, R77; log 9). -/
inductive RegionKind where
  | memory
  | readOnly
  | device
  deriving DecidableEq, Repr

/-- A run of physical addresses of one kind. -/
structure Region where
  base : Nat
  size : Nat
  kind : RegionKind
  deriving DecidableEq, Repr

/-- The open parameters of 00_scope.md R5 that are data. They stand in State, where no instruction changes
them, so that a statement about every state is a statement about every choice of them (log 13). -/
structure Platform where
  /-- `StatusWriteMask` (R31, R303). -/
  statusWriteMask : Word
  /-- `HWREnaImplMask`: which of the hardware registers 0 to 3 exist (R39, R308). -/
  hwrenaImplMask : BitVec 4
  /-- `SYNCI_Step`, hardware register 1 (R48). -/
  synciStep : Word
  /-- `CCRes`, hardware register 3 (R48). -/
  ccRes : Word
  /-- `MemMap` (R77): the places that exist. -/
  memMap : List Region
  /-- ProbTrap of the EJTAG control register: debug exceptions go to the probe's vector (R367). -/
  probTrap : Bool
  /-- The write mask of Debug holds IBusEP and DBusEP: R36 has them R/W, the list of R303 leaves them out (log 40). -/
  busErrorBits : Bool
  deriving DecidableEq, Repr

/-- The choice of parameters the model's reset state uses (log 13; R31's suggested StatusWriteMask; log 9 for
the memory map). -/
def Platform.default : Platform where
  statusWriteMask := 0x1878FF17
  hwrenaImplMask := 0xF
  synciStep := 0
  ccRes := 2
  memMap := [⟨0, 4294967296, .memory⟩]
  probTrap := false
  busErrorBits := true

end Sys2Proof
end

