-- ==== Sys2Proof/Syntax.lean ====
section
/-! DEFINITION. The instructions: one constructor per row of spec/opcode_table.json. Operands stand in the order
the assembler writes them (30_encoding.md R105), with the fields the encoding has (R91, R92). -/

namespace Sys2Proof

/-- The immediate of the MIPS16e PC-relative instructions: the 8-bit field of the 16-bit form, or the 16-bit
immediate of the EXTEND form that spec/opcode_table.json lists under `variants` (47_mips16e_only.md R331, log 24). -/
inductive PcImm where
  | short (imm8 : BitVec 8)
  | extended (imm16 : Half)
  deriving DecidableEq, Repr

/-- The target register of JRC: the field rx, or register 31 in the form `JRC ra` (R334). -/
inductive JrcTarget where
  | rx (rx : Reg3)
  | ra
  deriving DecidableEq, Repr

/-- An instruction, one constructor per row of the opcode table. -/
inductive Instr where
  -- 40_arithmetic_logic.md
  | add (rd rs rt : Reg)
  | addi (rt rs : Reg) (imm : Half)
  | addiu (rt rs : Reg) (imm : Half)
  | addu (rd rs rt : Reg)
  | sub (rd rs rt : Reg)
  | subu (rd rs rt : Reg)
  | and (rd rs rt : Reg)
  | andi (rt rs : Reg) (imm : Half)
  | or (rd rs rt : Reg)
  | ori (rt rs : Reg) (imm : Half)
  | xor (rd rs rt : Reg)
  | xori (rt rs : Reg) (imm : Half)
  | nor (rd rs rt : Reg)
  | lui (rt : Reg) (imm : Half)
  | slt (rd rs rt : Reg)
  | slti (rt rs : Reg) (imm : Half)
  | sltiu (rt rs : Reg) (imm : Half)
  | sltu (rd rs rt : Reg)
  /-- CLO and CLZ carry their rt field, which must equal rd (R138, R139). -/
  | clo (rd rs rt : Reg)
  | clz (rd rs rt : Reg)
  | seb (rd rt : Reg)
  | seh (rd rt : Reg)
  | wsbh (rd rt : Reg)
  /-- EXT rt, rs, pos, size with the encoded fields msbd = size - 1 and lsb = pos (R143). -/
  | ext (rt rs : Reg) (msbd lsb : BitVec 5)
  /-- INS rt, rs, pos, size with the encoded fields msb = pos + size - 1 and lsb = pos (R144). -/
  | ins (rt rs : Reg) (msb lsb : BitVec 5)
  | movn (rd rs rt : Reg)
  | movz (rd rs rt : Reg)
  -- 41_shift_nop.md
  | sll (rd rt : Reg) (sa : BitVec 5)
  | sllv (rd rt rs : Reg)
  | srl (rd rt : Reg) (sa : BitVec 5)
  | srlv (rd rt rs : Reg)
  | sra (rd rt : Reg) (sa : BitVec 5)
  | srav (rd rt rs : Reg)
  | rotr (rd rt : Reg) (sa : BitVec 5)
  | rotrv (rd rt rs : Reg)
  | nop
  | ssnop
  | ehb
  -- 42_multiply_divide.md
  | mult (rs rt : Reg)
  | multu (rs rt : Reg)
  | mul (rd rs rt : Reg)
  | madd (rs rt : Reg)
  | maddu (rs rt : Reg)
  | msub (rs rt : Reg)
  | msubu (rs rt : Reg)
  | div (rs rt : Reg)
  | divu (rs rt : Reg)
  | mfhi (rd : Reg)
  | mflo (rd : Reg)
  | mthi (rs : Reg)
  | mtlo (rs : Reg)
  -- 43_branch_jump.md
  | b (offset : Half)
  | bal (offset : Half)
  | beq (rs rt : Reg) (offset : Half)
  | bne (rs rt : Reg) (offset : Half)
  | bgez (rs : Reg) (offset : Half)
  | bgtz (rs : Reg) (offset : Half)
  | blez (rs : Reg) (offset : Half)
  | bltz (rs : Reg) (offset : Half)
  | bgezal (rs : Reg) (offset : Half)
  | bltzal (rs : Reg) (offset : Half)
  | beql (rs rt : Reg) (offset : Half)
  | bnel (rs rt : Reg) (offset : Half)
  | bgezl (rs : Reg) (offset : Half)
  | bgtzl (rs : Reg) (offset : Half)
  | blezl (rs : Reg) (offset : Half)
  | bltzl (rs : Reg) (offset : Half)
  | bgezall (rs : Reg) (offset : Half)
  | bltzall (rs : Reg) (offset : Half)
  | j (index : BitVec 26)
  | jal (index : BitVec 26)
  | jr (rs : Reg)
  | jrHb (rs : Reg)
  | jalr (rd rs : Reg)
  | jalrHb (rd rs : Reg)
  -- 44_load_store.md
  | lb (rt : Reg) (offset : Half) (base : Reg)
  | lbu (rt : Reg) (offset : Half) (base : Reg)
  | lh (rt : Reg) (offset : Half) (base : Reg)
  | lhu (rt : Reg) (offset : Half) (base : Reg)
  | lw (rt : Reg) (offset : Half) (base : Reg)
  | lwl (rt : Reg) (offset : Half) (base : Reg)
  | lwr (rt : Reg) (offset : Half) (base : Reg)
  | sb (rt : Reg) (offset : Half) (base : Reg)
  | sh (rt : Reg) (offset : Half) (base : Reg)
  | sw (rt : Reg) (offset : Half) (base : Reg)
  | swl (rt : Reg) (offset : Half) (base : Reg)
  | swr (rt : Reg) (offset : Half) (base : Reg)
  | ll (rt : Reg) (offset : Half) (base : Reg)
  | sc (rt : Reg) (offset : Half) (base : Reg)
  | sync (stype : BitVec 5)
  -- 45_trap_system.md
  | syscall (code : BitVec 20)
  | break_ (code : BitVec 20)
  | sdbbp (code : BitVec 20)
  | teq (rs rt : Reg) (code : BitVec 10)
  | tne (rs rt : Reg) (code : BitVec 10)
  | tge (rs rt : Reg) (code : BitVec 10)
  | tgeu (rs rt : Reg) (code : BitVec 10)
  | tlt (rs rt : Reg) (code : BitVec 10)
  | tltu (rs rt : Reg) (code : BitVec 10)
  | teqi (rs : Reg) (imm : Half)
  | tnei (rs : Reg) (imm : Half)
  | tgei (rs : Reg) (imm : Half)
  | tgeiu (rs : Reg) (imm : Half)
  | tlti (rs : Reg) (imm : Half)
  | tltiu (rs : Reg) (imm : Half)
  | wait (code : BitVec 19)
  -- 46_cop0_privileged.md
  /-- The class row COP0: the operations with the CO bit set that have no row of their own (R301). -/
  | cop0 (cofun : BitVec 25)
  | mfc0 (rt : Reg) (rd : BitVec 5) (sel : BitVec 3)
  | mtc0 (rt : Reg) (rd : BitVec 5) (sel : BitVec 3)
  | di (rt : Reg)
  | ei (rt : Reg)
  | eret
  | deret
  | rdhwr (rt : Reg) (rd : BitVec 5)
  | rdpgpr (rd rt : Reg)
  | wrpgpr (rd rt : Reg)
  -- 47_mips16e_only.md
  | addiupc (rx : Reg3) (imm : PcImm)
  | lwpc (rx : Reg3) (imm : PcImm)
  | jalrc (rx : Reg3)
  | jrc (target : JrcTarget)
  | save (ra s0 s1 : Bool) (framesize : BitVec 4)
  | restore (ra s0 s1 : Bool) (framesize : BitVec 4)
  | zeb (rx : Reg3)
  | zeh (rx : Reg3)
  deriving DecidableEq, Repr

end Sys2Proof
end

