-- ==== Sys2Proof/WellFormed.lean ====
section
/-! DEFINITION. Which instructions a word can hold, and which of them have operands the architecture gives a
meaning. -/

namespace Sys2Proof

/-- The instruction is one the decoder can answer: it is not the general form of a word that a row of higher
priority names (30_encoding.md R100: B, BAL, NOP, SSNOP, EHB, ERET, DERET and WAIT win over the row they
specialise). Every other operand value has an encoding. -/
def Instr.wellFormed : Instr → Bool
  | .sll rd rt sa => !(rd == 0 && rt == 0 && (sa == 0 || sa == 1 || sa == 3))
  | .beq rs rt _ => !(rs == 0 && rt == 0)
  | .bgezal rs _ => rs != 0
  | .cop0 cofun => cofun != 0x18 && cofun != 0x1F && cofun.extractLsb' 0 6 != 0x20
  | _ => true

/-- The operand restrictions that are no must-be-zero fields (R410; the `constraints` of
spec/opcode_table.json): an instruction that breaks one is UNPREDICTABLE. -/
def Instr.predictable : Instr → Bool
  | .clo rd _ rt => rt == rd
  | .clz rd _ rt => rt == rd
  | .ext _ _ msbd lsb => decide (lsb.toNat + msbd.toNat ≤ 31)
  | .ins _ _ msb lsb => decide (lsb.toNat ≤ msb.toNat)
  | .bgezal rs _ => rs != 31
  | .bltzal rs _ => rs != 31
  | .bgezall rs _ => rs != 31
  | .bltzall rs _ => rs != 31
  | .jalr rd rs => rs != rd
  | .jalrHb rd rs => rs != rd
  | _ => true

end Sys2Proof
end

