-- ==== Sys2Proof/Decode.lean ====
section
/-! DEFINITION. The decoder, total on every word and halfword and rejecting by name, and the encoder written from
the same opcode maps (30_encoding.md R90 to R104, 47_mips16e_only.md; every bit pattern is UNVERIFIED, log 22). -/

namespace Sys2Proof

/-- Why a word decodes to no instruction of the table (R102, R330). -/
inductive Reject where
  /-- R102 case 1: MIPS32 Release 2 reserves the opcode: a Reserved Instruction exception follows. -/
  | reserved
  /-- R102 case 2: MIPS32 Release 2 defines it, the table does not list it. -/
  | notListed
  /-- R102 case 3: only a must-be-zero field is not zero (R101). -/
  | mustBeZero
  /-- A MIPS16e instruction outside the eight rows (R330). -/
  | mips16eUnlisted
  /-- An EXTEND form of SAVE or RESTORE: the table gives its bits, no rule its effect (R335, R336). -/
  | mips16eExtended
  deriving DecidableEq, Repr

/-! ## The fields of a MIPS32 word (R91, R92) -/

/-- The R-type cut of a word; the wider fields of the other formats are put together from it. -/
structure Fields where
  op : BitVec 6
  rs : BitVec 5
  rt : BitVec 5
  rd : BitVec 5
  sa : BitVec 5
  funct : BitVec 6
  deriving DecidableEq, Repr

namespace Fields

def ofWord (w : Word) : Fields where
  op := w.extractLsb' 26 6
  rs := w.extractLsb' 21 5
  rt := w.extractLsb' 16 5
  rd := w.extractLsb' 11 5
  sa := w.extractLsb' 6 5
  funct := w.extractLsb' 0 6

def toWord (f : Fields) : Word := f.op ++ f.rs ++ f.rt ++ f.rd ++ f.sa ++ f.funct

/-- Bits 15:0, the immediate or offset. -/
def imm (f : Fields) : Half := f.rd ++ f.sa ++ f.funct

/-- Bits 25:0, instr_index. -/
def index (f : Fields) : BitVec 26 := f.rs ++ f.rt ++ f.rd ++ f.sa ++ f.funct

/-- Bits 25:6, the code of SYSCALL, BREAK, SDBBP. -/
def code20 (f : Fields) : BitVec 20 := f.rs ++ f.rt ++ f.rd ++ f.sa

/-- Bits 15:6, the code of the register traps. -/
def code10 (f : Fields) : BitVec 10 := f.rd ++ f.sa

/-- Bits 24:0, the coprocessor function. -/
def cofun (f : Fields) : BitVec 25 := f.rs.extractLsb' 0 4 ++ f.rt ++ f.rd ++ f.sa ++ f.funct

/-- Bits 24:6, the code of WAIT. -/
def code19 (f : Fields) : BitVec 19 := f.rs.extractLsb' 0 4 ++ f.rt ++ f.rd ++ f.sa

/-- A word of the I-type. -/
def ofImm (op : BitVec 6) (rs rt : BitVec 5) (imm : Half) : Fields :=
  ⟨op, rs, rt, imm.extractLsb' 11 5, imm.extractLsb' 6 5, imm.extractLsb' 0 6⟩

/-- A word of the J-type. -/
def ofIndex (op : BitVec 6) (i : BitVec 26) : Fields :=
  ⟨op, i.extractLsb' 21 5, i.extractLsb' 16 5, i.extractLsb' 11 5, i.extractLsb' 6 5, i.extractLsb' 0 6⟩

/-- A word with a 20-bit code. -/
def ofCode20 (op : BitVec 6) (c : BitVec 20) (funct : BitVec 6) : Fields :=
  ⟨op, c.extractLsb' 15 5, c.extractLsb' 10 5, c.extractLsb' 5 5, c.extractLsb' 0 5, funct⟩

/-- A trap word with a 10-bit code. -/
def ofTrap (rs rt : Reg) (c : BitVec 10) (funct : BitVec 6) : Fields :=
  ⟨0x00, rs, rt, c.extractLsb' 5 5, c.extractLsb' 0 5, funct⟩

/-- A word of the CO space. -/
def ofCofun (c : BitVec 25) : Fields :=
  ⟨0x10, 1#1 ++ c.extractLsb' 21 4, c.extractLsb' 16 5, c.extractLsb' 11 5, c.extractLsb' 6 5, c.extractLsb' 0 6⟩

/-- A WAIT word. -/
def ofCode19 (c : BitVec 19) : Fields :=
  ⟨0x10, 1#1 ++ c.extractLsb' 15 4, c.extractLsb' 10 5, c.extractLsb' 5 5, c.extractLsb' 0 5, 0x20⟩

end Fields

/-- The instruction, if its must-be-zero fields are zero (R101). -/
def ifZero (zero : Bool) (i : Instr) : Except Reject Instr := if zero then .ok i else .error .mustBeZero

/-- Opcode SPECIAL, by funct (R95). -/
def decodeSpecial (f : Fields) : Except Reject Instr :=
  match f.funct with
  | 0x00#6 =>
    if f.rs != 0 then .error .mustBeZero
    else if f.rt == 0 && f.rd == 0 && f.sa == 0 then .ok .nop
    else if f.rt == 0 && f.rd == 0 && f.sa == 1 then .ok .ssnop
    else if f.rt == 0 && f.rd == 0 && f.sa == 3 then .ok .ehb
    else .ok (.sll f.rd f.rt f.sa)
  | 0x01#6 => .error .notListed
  | 0x02#6 =>
    if f.rs == 0 then .ok (.srl f.rd f.rt f.sa) else ifZero (f.rs == 1) (.rotr f.rd f.rt f.sa)
  | 0x03#6 => ifZero (f.rs == 0) (.sra f.rd f.rt f.sa)
  | 0x04#6 => ifZero (f.sa == 0) (.sllv f.rd f.rt f.rs)
  | 0x06#6 =>
    if f.sa == 0 then .ok (.srlv f.rd f.rt f.rs) else ifZero (f.sa == 1) (.rotrv f.rd f.rt f.rs)
  | 0x07#6 => ifZero (f.sa == 0) (.srav f.rd f.rt f.rs)
  | 0x08#6 =>
    if f.sa == 0x10 then ifZero (f.rt == 0 && f.rd == 0) (.jrHb f.rs)
    else ifZero (f.rt == 0 && f.rd == 0 && f.sa == 0) (.jr f.rs)
  | 0x09#6 =>
    if f.sa == 0x10 then ifZero (f.rt == 0) (.jalrHb f.rd f.rs)
    else ifZero (f.rt == 0 && f.sa == 0) (.jalr f.rd f.rs)
  | 0x0A#6 => ifZero (f.sa == 0) (.movz f.rd f.rs f.rt)
  | 0x0B#6 => ifZero (f.sa == 0) (.movn f.rd f.rs f.rt)
  | 0x0C#6 => .ok (.syscall f.code20)
  | 0x0D#6 => .ok (.break_ f.code20)
  | 0x0F#6 => ifZero (f.rs == 0 && f.rt == 0 && f.rd == 0) (.sync f.sa)
  | 0x10#6 => ifZero (f.rs == 0 && f.rt == 0 && f.sa == 0) (.mfhi f.rd)
  | 0x11#6 => ifZero (f.rt == 0 && f.rd == 0 && f.sa == 0) (.mthi f.rs)
  | 0x12#6 => ifZero (f.rs == 0 && f.rt == 0 && f.sa == 0) (.mflo f.rd)
  | 0x13#6 => ifZero (f.rt == 0 && f.rd == 0 && f.sa == 0) (.mtlo f.rs)
  | 0x18#6 => ifZero (f.rd == 0 && f.sa == 0) (.mult f.rs f.rt)
  | 0x19#6 => ifZero (f.rd == 0 && f.sa == 0) (.multu f.rs f.rt)
  | 0x1A#6 => ifZero (f.rd == 0 && f.sa == 0) (.div f.rs f.rt)
  | 0x1B#6 => ifZero (f.rd == 0 && f.sa == 0) (.divu f.rs f.rt)
  | 0x20#6 => ifZero (f.sa == 0) (.add f.rd f.rs f.rt)
  | 0x21#6 => ifZero (f.sa == 0) (.addu f.rd f.rs f.rt)
  | 0x22#6 => ifZero (f.sa == 0) (.sub f.rd f.rs f.rt)
  | 0x23#6 => ifZero (f.sa == 0) (.subu f.rd f.rs f.rt)
  | 0x24#6 => ifZero (f.sa == 0) (.and f.rd f.rs f.rt)
  | 0x25#6 => ifZero (f.sa == 0) (.or f.rd f.rs f.rt)
  | 0x26#6 => ifZero (f.sa == 0) (.xor f.rd f.rs f.rt)
  | 0x27#6 => ifZero (f.sa == 0) (.nor f.rd f.rs f.rt)
  | 0x2A#6 => ifZero (f.sa == 0) (.slt f.rd f.rs f.rt)
  | 0x2B#6 => ifZero (f.sa == 0) (.sltu f.rd f.rs f.rt)
  | 0x30#6 => .ok (.tge f.rs f.rt f.code10)
  | 0x31#6 => .ok (.tgeu f.rs f.rt f.code10)
  | 0x32#6 => .ok (.tlt f.rs f.rt f.code10)
  | 0x33#6 => .ok (.tltu f.rs f.rt f.code10)
  | 0x34#6 => .ok (.teq f.rs f.rt f.code10)
  | 0x36#6 => .ok (.tne f.rs f.rt f.code10)
  | _ => .error .reserved

/-- Opcode REGIMM, by the rt field (R96). -/
def decodeRegimm (f : Fields) : Except Reject Instr :=
  match f.rt with
  | 0x00#5 => .ok (.bltz f.rs f.imm)
  | 0x01#5 => .ok (.bgez f.rs f.imm)
  | 0x02#5 => .ok (.bltzl f.rs f.imm)
  | 0x03#5 => .ok (.bgezl f.rs f.imm)
  | 0x08#5 => .ok (.tgei f.rs f.imm)
  | 0x09#5 => .ok (.tgeiu f.rs f.imm)
  | 0x0A#5 => .ok (.tlti f.rs f.imm)
  | 0x0B#5 => .ok (.tltiu f.rs f.imm)
  | 0x0C#5 => .ok (.teqi f.rs f.imm)
  | 0x0E#5 => .ok (.tnei f.rs f.imm)
  | 0x10#5 => .ok (.bltzal f.rs f.imm)
  | 0x11#5 => if f.rs == 0 then .ok (.bal f.imm) else .ok (.bgezal f.rs f.imm)
  | 0x12#5 => .ok (.bltzall f.rs f.imm)
  | 0x13#5 => .ok (.bgezall f.rs f.imm)
  | 0x1F#5 => .error .notListed
  | _ => .error .reserved

/-- Opcode SPECIAL2, by funct (R97). -/
def decodeSpecial2 (f : Fields) : Except Reject Instr :=
  match f.funct with
  | 0x00#6 => ifZero (f.rd == 0 && f.sa == 0) (.madd f.rs f.rt)
  | 0x01#6 => ifZero (f.rd == 0 && f.sa == 0) (.maddu f.rs f.rt)
  | 0x02#6 => ifZero (f.sa == 0) (.mul f.rd f.rs f.rt)
  | 0x04#6 => ifZero (f.rd == 0 && f.sa == 0) (.msub f.rs f.rt)
  | 0x05#6 => ifZero (f.rd == 0 && f.sa == 0) (.msubu f.rs f.rt)
  | 0x20#6 => ifZero (f.sa == 0) (.clz f.rd f.rs f.rt)
  | 0x21#6 => ifZero (f.sa == 0) (.clo f.rd f.rs f.rt)
  | 0x3F#6 => .ok (.sdbbp f.code20)
  | _ => .error .reserved

/-- Opcode SPECIAL3, by funct, and under BSHFL by bits 10:6 (R98). -/
def decodeSpecial3 (f : Fields) : Except Reject Instr :=
  match f.funct with
  | 0x00#6 => .ok (.ext f.rt f.rs f.rd f.sa)
  | 0x04#6 => .ok (.ins f.rt f.rs f.rd f.sa)
  | 0x20#6 =>
    match f.sa with
    | 0x02#5 => ifZero (f.rs == 0) (.wsbh f.rd f.rt)
    | 0x10#5 => ifZero (f.rs == 0) (.seb f.rd f.rt)
    | 0x18#5 => ifZero (f.rs == 0) (.seh f.rd f.rt)
    | _ => .error .reserved
  | 0x3B#6 => ifZero (f.rs == 0 && f.sa == 0) (.rdhwr f.rt f.rd)
  | _ => .error .reserved

/-- The CO space: the three named operations win over the class row (R99, R100). -/
def decodeCo (f : Fields) : Except Reject Instr :=
  if f.cofun == 0x18 then .ok .eret
  else if f.cofun == 0x1F then .ok .deret
  else if f.funct == 0x20 then .ok (.wait f.code19)
  else .ok (.cop0 f.cofun)

/-- Opcode COP0, by the rs field (R99). A word of MFMC0 (rs 0x0B) whose rd is not 12 is in none of R102's three cases;
it is rejected as if its rd field had to be that constant (DESIGN CHOICE, log 22). -/
def decodeCop0 (f : Fields) : Except Reject Instr :=
  if f.rs.getLsbD 4 then decodeCo f
  else
    match f.rs with
    | 0x00#5 => ifZero (f.sa == 0 && f.funct.extractLsb' 3 3 == 0) (.mfc0 f.rt f.rd (f.funct.extractLsb' 0 3))
    | 0x04#5 => ifZero (f.sa == 0 && f.funct.extractLsb' 3 3 == 0) (.mtc0 f.rt f.rd (f.funct.extractLsb' 0 3))
    | 0x0A#5 => ifZero (f.sa == 0 && f.funct == 0) (.rdpgpr f.rd f.rt)
    | 0x0B#5 =>
      if f.funct == 0x20 then ifZero (f.rd == 12 && f.sa == 0) (.ei f.rt)
      else ifZero (f.rd == 12 && f.sa == 0 && f.funct == 0) (.di f.rt)
    | 0x0E#5 => ifZero (f.sa == 0 && f.funct == 0) (.wrpgpr f.rd f.rt)
    | _ => .error .reserved

/-- The primary opcode map (R94). -/
def decodeFields (f : Fields) : Except Reject Instr :=
  match f.op with
  | 0x00#6 => decodeSpecial f
  | 0x01#6 => decodeRegimm f
  | 0x02#6 => .ok (.j f.index)
  | 0x03#6 => .ok (.jal f.index)
  | 0x04#6 => if f.rs == 0 && f.rt == 0 then .ok (.b f.imm) else .ok (.beq f.rs f.rt f.imm)
  | 0x05#6 => .ok (.bne f.rs f.rt f.imm)
  | 0x06#6 => ifZero (f.rt == 0) (.blez f.rs f.imm)
  | 0x07#6 => ifZero (f.rt == 0) (.bgtz f.rs f.imm)
  | 0x08#6 => .ok (.addi f.rt f.rs f.imm)
  | 0x09#6 => .ok (.addiu f.rt f.rs f.imm)
  | 0x0A#6 => .ok (.slti f.rt f.rs f.imm)
  | 0x0B#6 => .ok (.sltiu f.rt f.rs f.imm)
  | 0x0C#6 => .ok (.andi f.rt f.rs f.imm)
  | 0x0D#6 => .ok (.ori f.rt f.rs f.imm)
  | 0x0E#6 => .ok (.xori f.rt f.rs f.imm)
  | 0x0F#6 => ifZero (f.rs == 0) (.lui f.rt f.imm)
  | 0x10#6 => decodeCop0 f
  | 0x11#6 => .error .notListed
  | 0x12#6 => .error .notListed
  | 0x13#6 => .error .notListed
  | 0x14#6 => .ok (.beql f.rs f.rt f.imm)
  | 0x15#6 => .ok (.bnel f.rs f.rt f.imm)
  | 0x16#6 => ifZero (f.rt == 0) (.blezl f.rs f.imm)
  | 0x17#6 => ifZero (f.rt == 0) (.bgtzl f.rs f.imm)
  | 0x1C#6 => decodeSpecial2 f
  | 0x1D#6 => .error .notListed
  | 0x1F#6 => decodeSpecial3 f
  | 0x20#6 => .ok (.lb f.rt f.imm f.rs)
  | 0x21#6 => .ok (.lh f.rt f.imm f.rs)
  | 0x22#6 => .ok (.lwl f.rt f.imm f.rs)
  | 0x23#6 => .ok (.lw f.rt f.imm f.rs)
  | 0x24#6 => .ok (.lbu f.rt f.imm f.rs)
  | 0x25#6 => .ok (.lhu f.rt f.imm f.rs)
  | 0x26#6 => .ok (.lwr f.rt f.imm f.rs)
  | 0x28#6 => .ok (.sb f.rt f.imm f.rs)
  | 0x29#6 => .ok (.sh f.rt f.imm f.rs)
  | 0x2A#6 => .ok (.swl f.rt f.imm f.rs)
  | 0x2B#6 => .ok (.sw f.rt f.imm f.rs)
  | 0x2E#6 => .ok (.swr f.rt f.imm f.rs)
  | 0x2F#6 => .error .notListed
  | 0x30#6 => .ok (.ll f.rt f.imm f.rs)
  | 0x31#6 => .error .notListed
  | 0x32#6 => .error .notListed
  | 0x33#6 => .error .notListed
  | 0x35#6 => .error .notListed
  | 0x36#6 => .error .notListed
  | 0x38#6 => .ok (.sc f.rt f.imm f.rs)
  | 0x39#6 => .error .notListed
  | 0x3A#6 => .error .notListed
  | 0x3D#6 => .error .notListed
  | 0x3E#6 => .error .notListed
  | _ => .error .reserved

/-- Decode a MIPS32 word (R100). -/
def decode32 (w : Word) : Except Reject Instr := decodeFields (Fields.ofWord w)

/-! ## MIPS16e halfwords (R104, 47_mips16e_only.md) -/

/-- The cut of a halfword: major opcode, rx field (or I8 function), low byte. -/
structure HalfFields where
  major : BitVec 5
  rx : BitVec 3
  low : BitVec 8
  deriving DecidableEq, Repr

def HalfFields.ofHalf (h : Half) : HalfFields := ⟨h.extractLsb' 11 5, h.extractLsb' 8 3, h.extractLsb' 0 8⟩

def HalfFields.toHalf (f : HalfFields) : Half := f.major ++ f.rx ++ f.low

/-- A halfword that starts a 32-bit MIPS16e instruction: EXTEND, JAL or JALX (R104). -/
def isLong16 (h : Half) : Bool := h.extractLsb' 11 5 == 0x1E || h.extractLsb' 11 5 == 0x03

/-- A 16-bit instruction. -/
def decodeShort (f : HalfFields) : Except Reject Instr :=
  match f.major with
  | 0x01#5 => .ok (.addiupc f.rx (.short f.low))
  | 0x16#5 => .ok (.lwpc f.rx (.short f.low))
  | 0x0C#5 =>
    if f.rx != 4 then .error .mips16eUnlisted
    else if f.low.getLsbD 7 then
      .ok (.save (f.low.getLsbD 6) (f.low.getLsbD 5) (f.low.getLsbD 4) (f.low.extractLsb' 0 4))
    else .ok (.restore (f.low.getLsbD 6) (f.low.getLsbD 5) (f.low.getLsbD 4) (f.low.extractLsb' 0 4))
  | 0x1D#5 =>
    match f.low with
    | 0xC0#8 => .ok (.jalrc f.rx)
    | 0x80#8 => .ok (.jrc (.rx f.rx))
    | 0xA0#8 => if f.rx == 0 then .ok (.jrc .ra) else .error .mips16eUnlisted
    | 0x11#8 => .ok (.zeb f.rx)
    | 0x31#8 => .ok (.zeh f.rx)
    | _ => .error .mips16eUnlisted
  | _ => .error .mips16eUnlisted

/-- The 16-bit immediate of an EXTEND prefix and the instruction after it: prefix bits 10:5 are imm[10:5],
prefix bits 4:0 imm[15:11], the low five bits of the second halfword imm[4:0] (`variants` of the table). -/
def extendImm (extend second : Half) : Half :=
  extend.extractLsb' 0 5 ++ extend.extractLsb' 5 6 ++ second.extractLsb' 0 5

/-- An instruction that the EXTEND prefix `extend` precedes. -/
def decodeExtended (extend second : Half) : Except Reject Instr :=
  let f := HalfFields.ofHalf second
  match f.major with
  | 0x01#5 => ifZero (f.low.extractLsb' 5 3 == 0) (.addiupc f.rx (.extended (extendImm extend second)))
  | 0x16#5 => ifZero (f.low.extractLsb' 5 3 == 0) (.lwpc f.rx (.extended (extendImm extend second)))
  | 0x0C#5 => if f.rx == 4 then .error .mips16eExtended else .error .mips16eUnlisted
  | _ => .error .mips16eUnlisted

/-- Decode a MIPS16e instruction from its halfword and the one after it. -/
def decode16 (h second : Half) : Except Reject Instr :=
  if h.extractLsb' 11 5 == 0x1E then decodeExtended h second else decodeShort (HalfFields.ofHalf h)

/-! ## The encoder -/

/-- What stands in memory for an instruction: a word, a halfword, or an EXTEND prefix and its halfword. -/
inductive Code where
  | word (w : Word)
  | half (h : Half)
  | extended (h second : Half)
  deriving DecidableEq, Repr

/-- Decode what stands in memory. -/
def decode : Code → Except Reject Instr
  | .word w => decode32 w
  | .half h => decodeShort (HalfFields.ofHalf h)
  | .extended h second => decode16 h second

/-- The fields of a MIPS32 instruction, none for the MIPS16e rows. -/
def encodeFields : Instr → Option Fields
  | .add rd rs rt => some ⟨0x00, rs, rt, rd, 0, 0x20⟩
  | .addu rd rs rt => some ⟨0x00, rs, rt, rd, 0, 0x21⟩
  | .sub rd rs rt => some ⟨0x00, rs, rt, rd, 0, 0x22⟩
  | .subu rd rs rt => some ⟨0x00, rs, rt, rd, 0, 0x23⟩
  | .and rd rs rt => some ⟨0x00, rs, rt, rd, 0, 0x24⟩
  | .or rd rs rt => some ⟨0x00, rs, rt, rd, 0, 0x25⟩
  | .xor rd rs rt => some ⟨0x00, rs, rt, rd, 0, 0x26⟩
  | .nor rd rs rt => some ⟨0x00, rs, rt, rd, 0, 0x27⟩
  | .slt rd rs rt => some ⟨0x00, rs, rt, rd, 0, 0x2A⟩
  | .sltu rd rs rt => some ⟨0x00, rs, rt, rd, 0, 0x2B⟩
  | .movz rd rs rt => some ⟨0x00, rs, rt, rd, 0, 0x0A⟩
  | .movn rd rs rt => some ⟨0x00, rs, rt, rd, 0, 0x0B⟩
  | .addi rt rs imm => some (.ofImm 0x08 rs rt imm)
  | .addiu rt rs imm => some (.ofImm 0x09 rs rt imm)
  | .slti rt rs imm => some (.ofImm 0x0A rs rt imm)
  | .sltiu rt rs imm => some (.ofImm 0x0B rs rt imm)
  | .andi rt rs imm => some (.ofImm 0x0C rs rt imm)
  | .ori rt rs imm => some (.ofImm 0x0D rs rt imm)
  | .xori rt rs imm => some (.ofImm 0x0E rs rt imm)
  | .lui rt imm => some (.ofImm 0x0F 0 rt imm)
  | .clz rd rs rt => some ⟨0x1C, rs, rt, rd, 0, 0x20⟩
  | .clo rd rs rt => some ⟨0x1C, rs, rt, rd, 0, 0x21⟩
  | .wsbh rd rt => some ⟨0x1F, 0, rt, rd, 0x02, 0x20⟩
  | .seb rd rt => some ⟨0x1F, 0, rt, rd, 0x10, 0x20⟩
  | .seh rd rt => some ⟨0x1F, 0, rt, rd, 0x18, 0x20⟩
  | .ext rt rs msbd lsb => some ⟨0x1F, rs, rt, msbd, lsb, 0x00⟩
  | .ins rt rs msb lsb => some ⟨0x1F, rs, rt, msb, lsb, 0x04⟩
  | .sll rd rt sa => some ⟨0x00, 0, rt, rd, sa, 0x00⟩
  | .srl rd rt sa => some ⟨0x00, 0, rt, rd, sa, 0x02⟩
  | .rotr rd rt sa => some ⟨0x00, 1, rt, rd, sa, 0x02⟩
  | .sra rd rt sa => some ⟨0x00, 0, rt, rd, sa, 0x03⟩
  | .sllv rd rt rs => some ⟨0x00, rs, rt, rd, 0, 0x04⟩
  | .srlv rd rt rs => some ⟨0x00, rs, rt, rd, 0, 0x06⟩
  | .rotrv rd rt rs => some ⟨0x00, rs, rt, rd, 1, 0x06⟩
  | .srav rd rt rs => some ⟨0x00, rs, rt, rd, 0, 0x07⟩
  | .nop => some ⟨0x00, 0, 0, 0, 0, 0x00⟩
  | .ssnop => some ⟨0x00, 0, 0, 0, 1, 0x00⟩
  | .ehb => some ⟨0x00, 0, 0, 0, 3, 0x00⟩
  | .mult rs rt => some ⟨0x00, rs, rt, 0, 0, 0x18⟩
  | .multu rs rt => some ⟨0x00, rs, rt, 0, 0, 0x19⟩
  | .div rs rt => some ⟨0x00, rs, rt, 0, 0, 0x1A⟩
  | .divu rs rt => some ⟨0x00, rs, rt, 0, 0, 0x1B⟩
  | .mul rd rs rt => some ⟨0x1C, rs, rt, rd, 0, 0x02⟩
  | .madd rs rt => some ⟨0x1C, rs, rt, 0, 0, 0x00⟩
  | .maddu rs rt => some ⟨0x1C, rs, rt, 0, 0, 0x01⟩
  | .msub rs rt => some ⟨0x1C, rs, rt, 0, 0, 0x04⟩
  | .msubu rs rt => some ⟨0x1C, rs, rt, 0, 0, 0x05⟩
  | .mfhi rd => some ⟨0x00, 0, 0, rd, 0, 0x10⟩
  | .mthi rs => some ⟨0x00, rs, 0, 0, 0, 0x11⟩
  | .mflo rd => some ⟨0x00, 0, 0, rd, 0, 0x12⟩
  | .mtlo rs => some ⟨0x00, rs, 0, 0, 0, 0x13⟩
  | .b offset => some (.ofImm 0x04 0 0 offset)
  | .bal offset => some (.ofImm 0x01 0 0x11 offset)
  | .beq rs rt offset => some (.ofImm 0x04 rs rt offset)
  | .bne rs rt offset => some (.ofImm 0x05 rs rt offset)
  | .blez rs offset => some (.ofImm 0x06 rs 0 offset)
  | .bgtz rs offset => some (.ofImm 0x07 rs 0 offset)
  | .bltz rs offset => some (.ofImm 0x01 rs 0x00 offset)
  | .bgez rs offset => some (.ofImm 0x01 rs 0x01 offset)
  | .bltzl rs offset => some (.ofImm 0x01 rs 0x02 offset)
  | .bgezl rs offset => some (.ofImm 0x01 rs 0x03 offset)
  | .bltzal rs offset => some (.ofImm 0x01 rs 0x10 offset)
  | .bgezal rs offset => some (.ofImm 0x01 rs 0x11 offset)
  | .bltzall rs offset => some (.ofImm 0x01 rs 0x12 offset)
  | .bgezall rs offset => some (.ofImm 0x01 rs 0x13 offset)
  | .beql rs rt offset => some (.ofImm 0x14 rs rt offset)
  | .bnel rs rt offset => some (.ofImm 0x15 rs rt offset)
  | .blezl rs offset => some (.ofImm 0x16 rs 0 offset)
  | .bgtzl rs offset => some (.ofImm 0x17 rs 0 offset)
  | .j index => some (.ofIndex 0x02 index)
  | .jal index => some (.ofIndex 0x03 index)
  | .jr rs => some ⟨0x00, rs, 0, 0, 0x00, 0x08⟩
  | .jrHb rs => some ⟨0x00, rs, 0, 0, 0x10, 0x08⟩
  | .jalr rd rs => some ⟨0x00, rs, 0, rd, 0x00, 0x09⟩
  | .jalrHb rd rs => some ⟨0x00, rs, 0, rd, 0x10, 0x09⟩
  | .lb rt offset base => some (.ofImm 0x20 base rt offset)
  | .lh rt offset base => some (.ofImm 0x21 base rt offset)
  | .lwl rt offset base => some (.ofImm 0x22 base rt offset)
  | .lw rt offset base => some (.ofImm 0x23 base rt offset)
  | .lbu rt offset base => some (.ofImm 0x24 base rt offset)
  | .lhu rt offset base => some (.ofImm 0x25 base rt offset)
  | .lwr rt offset base => some (.ofImm 0x26 base rt offset)
  | .sb rt offset base => some (.ofImm 0x28 base rt offset)
  | .sh rt offset base => some (.ofImm 0x29 base rt offset)
  | .swl rt offset base => some (.ofImm 0x2A base rt offset)
  | .sw rt offset base => some (.ofImm 0x2B base rt offset)
  | .swr rt offset base => some (.ofImm 0x2E base rt offset)
  | .ll rt offset base => some (.ofImm 0x30 base rt offset)
  | .sc rt offset base => some (.ofImm 0x38 base rt offset)
  | .sync stype => some ⟨0x00, 0, 0, 0, stype, 0x0F⟩
  | .syscall code => some (.ofCode20 0x00 code 0x0C)
  | .break_ code => some (.ofCode20 0x00 code 0x0D)
  | .sdbbp code => some (.ofCode20 0x1C code 0x3F)
  | .tge rs rt code => some (.ofTrap rs rt code 0x30)
  | .tgeu rs rt code => some (.ofTrap rs rt code 0x31)
  | .tlt rs rt code => some (.ofTrap rs rt code 0x32)
  | .tltu rs rt code => some (.ofTrap rs rt code 0x33)
  | .teq rs rt code => some (.ofTrap rs rt code 0x34)
  | .tne rs rt code => some (.ofTrap rs rt code 0x36)
  | .tgei rs imm => some (.ofImm 0x01 rs 0x08 imm)
  | .tgeiu rs imm => some (.ofImm 0x01 rs 0x09 imm)
  | .tlti rs imm => some (.ofImm 0x01 rs 0x0A imm)
  | .tltiu rs imm => some (.ofImm 0x01 rs 0x0B imm)
  | .teqi rs imm => some (.ofImm 0x01 rs 0x0C imm)
  | .tnei rs imm => some (.ofImm 0x01 rs 0x0E imm)
  | .wait code => some (.ofCode19 code)
  | .cop0 cofun => some (.ofCofun cofun)
  | .mfc0 rt rd sel => some ⟨0x10, 0x00, rt, rd, 0, 0#3 ++ sel⟩
  | .mtc0 rt rd sel => some ⟨0x10, 0x04, rt, rd, 0, 0#3 ++ sel⟩
  | .di rt => some ⟨0x10, 0x0B, rt, 12, 0, 0x00⟩
  | .ei rt => some ⟨0x10, 0x0B, rt, 12, 0, 0x20⟩
  | .eret => some (.ofCofun 0x18)
  | .deret => some (.ofCofun 0x1F)
  | .rdhwr rt rd => some ⟨0x1F, 0, rt, rd, 0, 0x3B⟩
  | .rdpgpr rd rt => some ⟨0x10, 0x0A, rt, rd, 0, 0⟩
  | .wrpgpr rd rt => some ⟨0x10, 0x0E, rt, rd, 0, 0⟩
  | .addiupc _ _ => none
  | .lwpc _ _ => none
  | .jalrc _ => none
  | .jrc _ => none
  | .save _ _ _ _ => none
  | .restore _ _ _ _ => none
  | .zeb _ => none
  | .zeh _ => none

/-- An EXTEND prefix and the halfword after it, for a 16-bit immediate. -/
def encodeExtended (major : BitVec 5) (rx : Reg3) (imm : Half) : Code :=
  .extended (0x1E#5 ++ imm.extractLsb' 5 6 ++ imm.extractLsb' 11 5) (major ++ rx ++ 0#3 ++ imm.extractLsb' 0 5)

/-- The low byte of SAVE and RESTORE: bits s, r, p, q and the frame size (R335, R336). -/
def frameByte (saves ra s0 s1 : Bool) (framesize : BitVec 4) : BitVec 8 :=
  BitVec.ofBool saves ++ BitVec.ofBool ra ++ BitVec.ofBool s0 ++ BitVec.ofBool s1 ++ framesize

/-- The code of a MIPS16e instruction; the word of no other instruction is asked of it. -/
def encodeHalf : Instr → Code
  | .addiupc rx (.short imm) => .half (HalfFields.toHalf ⟨0x01, rx, imm⟩)
  | .addiupc rx (.extended imm) => encodeExtended 0x01 rx imm
  | .lwpc rx (.short imm) => .half (HalfFields.toHalf ⟨0x16, rx, imm⟩)
  | .lwpc rx (.extended imm) => encodeExtended 0x16 rx imm
  | .jalrc rx => .half (HalfFields.toHalf ⟨0x1D, rx, 0xC0⟩)
  | .jrc (.rx rx) => .half (HalfFields.toHalf ⟨0x1D, rx, 0x80⟩)
  | .jrc .ra => .half (HalfFields.toHalf ⟨0x1D, 0, 0xA0⟩)
  | .save ra s0 s1 n => .half (HalfFields.toHalf ⟨0x0C, 4, frameByte true ra s0 s1 n⟩)
  | .restore ra s0 s1 n => .half (HalfFields.toHalf ⟨0x0C, 4, frameByte false ra s0 s1 n⟩)
  | .zeb rx => .half (HalfFields.toHalf ⟨0x1D, rx, 0x11⟩)
  | .zeh rx => .half (HalfFields.toHalf ⟨0x1D, rx, 0x31⟩)
  | _ => .word 0

/-- The encoder: what stands in memory for a well-formed instruction. -/
def encode (i : Instr) : Code :=
  match encodeFields i with
  | some f => .word f.toWord
  | none => encodeHalf i

/-! ## The words of the opcode table, as bytes in memory -/

/-- The bytes of a number, the least significant first: how the machine stores its words (20_memory.md R63). -/
def lowBytesFirst : Nat → Nat → List Byte
  | 0, _ => []
  | n + 1, w => BitVec.ofNat 8 w :: lowBytesFirst n (w / 256)

/-- The word that four bytes at rising addresses make, in the little-endian order (R64). -/
def wordOfBytes : List Byte → Word
  | [b0, b1, b2, b3] => b3 ++ b2 ++ b1 ++ b0
  | _ => 0

/-- The instruction the decoder reads from the bits `w` of a table row of `nbits` bits, laid out as the hardware
stores them: a 16-bit row is a MIPS16e halfword, and the halfword after it is 0. -/
def decodeTableWord (nbits w : Nat) : Option Instr :=
  let word := wordOfBytes (lowBytesFirst 4 w)
  let decoded :=
    if nbits = 16 then decode16 (word.extractLsb' 0 16) (word.extractLsb' 16 16) else decode32 word
  match decoded with
  | .ok i => some i
  | .error _ => none

end Sys2Proof
end

