-- ==== Sys2Proof/Machine/State.lean ====
section
/-! DEFINITION. The state of the machine as plain data (10_state.md R20), the reasons a step can stop, and the
state after reset (R51, 70_reset_and_hazards.md R400). -/

namespace Sys2Proof.Machine

/-- Memory: the bytes that are not 0, by physical address, addresses strictly rising (R49; log 10). -/
abbrev Memory := List Host.Cell

/-- The program counter and the delay-slot state (R25, R26, R27). -/
structure Flow where
  /-- The address of the instruction being executed. -/
  pc : Word
  /-- The address of the instruction that executes after it. -/
  npc : Word
  /-- The ISA mode that goes with `npc`. -/
  npcIsa : Bool
  /-- The current instruction is in a delay slot. -/
  inDs : Bool
  /-- ISAMode: true while executing MIPS16e. -/
  isaMode : Bool
  deriving DecidableEq, Repr

/-- The coprocessor 0 registers (R30 to R46). LLAddr stands in State as `llAddr`; Cause is put together from
`cause`, `causeCE` and the interrupt port (R32). -/
structure Cp0 where
  hwrena : Word
  badVAddr : Word
  count : Word
  compare : Word
  status : Word
  intCtl : Word
  srsCtl : Word
  srsMap : Word
  /-- Cause without its fields CE and IP7..IP2, which read 0 here. -/
  cause : Word
  /-- Cause.CE, bits 29:28. -/
  causeCE : BitVec 2
  epc : Word
  prid : Word
  ebase : Word
  config : Word
  config1 : Word
  config2 : Word
  config3 : Word
  debug : Word
  depc : Word
  errorEpc : Word
  desave : Word
  deriving DecidableEq, Repr

/-- The record of unbarriered writes (R50(d), R408). -/
structure Hazards where
  /-- `hazard`: the coprocessor 0 registers written since the last execution-hazard barrier, each with its
  value before the first of those writes. -/
  hazard : List (CpReg × Word)
  /-- `ihazard`: the Status before the first unbarriered write that changed UM, EXL or ERL. -/
  ihazard : Option Word
  /-- `hb_pending`: a JR.HB or JALR.HB waits for the end of its delay slot. -/
  hbPending : Bool
  /-- The bytes stored to since the last instruction-hazard barrier, each with its value before the first of
  those stores (R406, second row; log 6). -/
  staleText : List Host.Cell
  deriving DecidableEq, Repr

/-- What the interrupt inputs present (60_exceptions.md R352): the six hardware lines, or RIPL in
external-interrupt-controller mode, and the vector number the controller supplies. -/
structure Port where
  lines : BitVec 6
  vector : Option (BitVec 6)
  deriving DecidableEq, Repr

/-- The events that need no request in Cause (R355 ranks 1, 2, 4, 5). -/
inductive ExternalEvent where
  | reset | softReset | debugInterrupt | nmi
  deriving DecidableEq, Repr

/-- What the surroundings present at one step: the spec's `IrqOracle` (R352, R354, R364) and the environment
that may break a reservation (20_memory.md R73). -/
structure StepInput where
  lines : BitVec 6
  /-- The vector number the controller supplies; its 6 bits are the model's choice (DESIGN CHOICE, log 39). -/
  vector : Option (BitVec 6)
  /-- The shadow set the external controller asks for, SRSCtl.EICSS. -/
  eicss : BitVec 4
  /-- The oracle lets a due interrupt be taken at this step. -/
  accept : Bool
  /-- Count has reached Compare. -/
  timer : Bool
  /-- The load-linked reservation is lost. -/
  clearLL : Bool
  event : Option ExternalEvent
  deriving DecidableEq, Repr

/-- The state of the machine (R20). Every field is data; no register is without a value. -/
structure State where
  /-- sgpr[s][i]: 16 sets of 32 registers, of which SRSCtl.HSS + 1 sets exist (R23). -/
  regs : Vector (Vector Word 32) 16
  /-- HI; `none` is the spec's "no value" after an instruction that leaves it unpredictable (R50(f)). -/
  hi : Option Word
  /-- LO, as HI. -/
  lo : Option Word
  /-- hilo_unread: an arithmetic write of the pair that no MFHI or MFLO has read (R50(f)). -/
  hiloUnread : Bool
  flow : Flow
  /-- LLbit (R28). -/
  llBit : Bool
  /-- LLAddr (R28, R40). -/
  llAddr : Word
  cp0 : Cp0
  /-- A WAIT is in progress (R50(c)). -/
  waiting : Bool
  hz : Hazards
  port : Port
  /-- The model's own: an instruction has begun outside Debug Mode since Debug Mode was left (log 19). -/
  stepped : Bool
  /-- The open parameters of R5 (log 13). -/
  platform : Platform
  /-- The model's own: what the surroundings present at the coming steps, the first entry first (log 7). -/
  inputs : List StepInput
  /-- The model's own: the count of steps, which every free value is indexed by (log 25). -/
  draws : Nat
  mem : Memory
  deriving DecidableEq, Repr

/-- The exceptions an instruction, a fetch or an interrupt raises (00_scope.md R8, R350). Bus errors are not among
them: a model does not raise them (R76). -/
inductive Exc where
  | interrupt
  | addressErrorLoad (addr : Word)
  | addressErrorStore (addr : Word)
  | syscall
  | breakpoint
  | reservedInstruction
  | coprocessorUnusable (n : BitVec 2)
  | integerOverflow
  | trap
  | debugBreakpoint
  deriving DecidableEq, Repr

/-- Why the machine stops. Each is an operation that the architecture calls UNPREDICTABLE or UNDEFINED without
an effect among its choices, or an address that does not exist. Stopping is safe: nothing is claimed of what the
hardware does there. -/
inductive Fault where
  /-- Raised by a branch, jump, ERET, DERET, WAIT or compact jump in a delay slot (R200, R333). Safe. -/
  | controlInDelaySlot
  /-- Raised by BGEZAL, BLTZAL, BGEZALL, BLTZALL with rs = 31 (R202). Safe. -/
  | linkRegisterAsSource
  /-- Raised by JALR, JALR.HB with rs = rd (R225, R226). Safe. -/
  | jumpAndLinkSameRegister
  /-- Raised by CLO, CLZ whose rt field differs from rd (R138, R139). Safe. -/
  | countFieldsDiffer
  /-- Raised by EXT, INS whose bit field leaves the word (R143, R144). Safe. -/
  | bitFieldOutOfRange
  /-- Raised by SC, with LLbit set, to an address other than that of the last LL (R254). Safe. -/
  | scAddressMismatch
  /-- Raised by MFHI, MFLO, MADD, MADDU, MSUB, MSUBU when HI or LO, as they read it, holds no value (R182 to R186,
  R189, R190; D32). Safe. -/
  | noValue
  /-- Raised by MTC0 writing a shadow-set number above HSS, and by an exception entry that would select one
  (R23, R303). Safe. -/
  | shadowSetOutOfRange
  /-- Raised by MTC0 writing an illegal IntCtl.VS (R303). Safe. -/
  | illegalVectorSpacing
  /-- Raised by a fetch, load or store at a physical address MemMap does not admit, and by a store to a place it
  admits for reads only (R64, R77). Safe. -/
  | notAdmitted
  deriving DecidableEq, Repr

/-- Why the model has no step. A refusal says nothing of what the chip does (R9), so it is safe. -/
inductive Refusal where
  /-- Raised by an arm of exec whose instruction has no meaning yet. Safe. -/
  | notModelled (mnemonic : String)
  /-- Raised by the fetch of an instruction that MIPS32 Release 2 defines and the table does not list (R102
  case 2). Safe. -/
  | unlistedInstruction
  /-- Raised by the fetch of a word that fails only on a must-be-zero field (R101, R102 case 3). Safe. -/
  | mustBeZeroField
  /-- Raised by COP0 with the function of a TLB operation (R301). Safe. -/
  | tlbOperation
  /-- Raised by the fetch of a MIPS16e instruction outside the eight rows (R330). Safe. -/
  | mips16eUnlisted
  /-- Raised by the fetch of an EXTEND form of SAVE or RESTORE, whose effect no rule gives (R335, R336). Safe. -/
  | mips16eExtended
  /-- Raised by an access to a region of MemMap that is a device (R69, R77). Safe. -/
  | deviceAccess
  /-- Raised by an access to the EJTAG debug segment in Debug Mode (R61, R363). Safe. -/
  | debugSegment
  deriving DecidableEq, Repr

/-- The coprocessor 0 registers after reset: R51 where it gives a value; the preset values of log 12 and log 14;
zero otherwise (log 11). -/
def Cp0.reset : Cp0 where
  hwrena := 0
  badVAddr := 0
  count := 0
  compare := 0
  status := 0x00400004
  intCtl := 0xFC000000
  srsCtl := 0x04000000
  srsMap := 0
  cause := 0
  causeCE := 0
  epc := 0
  prid := 0
  ebase := 0x80000000
  config := 0x80000580
  config1 := 0x80000006
  config2 := 0x80000000
  config3 := 0x00000060
  debug := 0x02000000
  depc := 0
  errorEpc := 0
  desave := 0

/-- Nothing is recorded: what a barrier leaves (R407). -/
def Hazards.none : Hazards := ⟨[], Option.none, false, []⟩

/-- The machine right after a cold reset (R51, R400). That no interrupt line is asserted and the controller supplies no
vector is the model's choice: R51 has Cause.IP7..IP2 follow the lines, which IrqOracle gives (DESIGN CHOICE, log 7). -/
def State.reset : State where
  regs := Vector.replicate 16 (Vector.replicate 32 0)
  hi := some 0
  lo := some 0
  hiloUnread := false
  flow := ⟨Config.resetVector, Config.resetVector + 4, false, false, false⟩
  llBit := false
  llAddr := 0
  cp0 := Cp0.reset
  waiting := false
  hz := Hazards.none
  port := ⟨0, none⟩
  stepped := false
  platform := Platform.default
  inputs := []
  draws := 0
  mem := []

end Sys2Proof.Machine
end

