-- ==== Sys2Proof/Machine/Bits.lean ====
section
/-! DEFINITION. Bits and fields of words, extensions, and the byte order (00_scope.md R6, R8; 20_memory.md R64). -/

namespace Sys2Proof.Machine

/-- `v[i]`, one bit of a word (R6). -/
def bit (w : Word) (i : Nat) : Bool := w.getLsbD i

/-- `v[lo+n-1:lo]`, a field of n bits (R6). -/
def field (w : Word) (lo n : Nat) : BitVec n := w.extractLsb' lo n

/-- The word with bit i set to b. -/
def setBit (w : Word) (i : Nat) (b : Bool) : Word :=
  if b then w ||| (1#32 <<< i) else w &&& ~~~(1#32 <<< i)

/-- The bits a field of n bits at lo covers. -/
def fieldMask (lo n : Nat) : Word := (BitVec.allOnes n).setWidth 32 <<< lo

/-- The word with the field of n bits at lo set to v. -/
def setField (w : Word) (lo : Nat) {n : Nat} (v : BitVec n) : Word :=
  (w &&& ~~~(fieldMask lo n)) ||| (v.setWidth 32 <<< lo)

/-- `sext_N(v)` (R8). -/
def sext {n : Nat} (v : BitVec n) : Word := v.signExtend 32

/-- `zext_N(v)` (R8). -/
def zext {n : Nat} (v : BitVec n) : Word := v.setWidth 32

/-- 1 for true, 0 for false, as the set-on-less-than instructions and SC write it. -/
def flagWord (b : Bool) : Word := if b then 1 else 0

/-- `{v[31:1], b}`: an address with the ISA mode in bit 0 (10_state.md R27). -/
def withIsaBit (w : Word) (isa : Bool) : Word := setBit w 0 isa

/-- `{ea[31:2], 0b00}`, the aligned word that holds an address. -/
def alignWord (w : Word) : Word := w &&& 0xFFFFFFFC

/-- The bytes of a value, the least significant first. -/
def splitBytes (v : Word) : Nat → List Byte
  | 0 => []
  | n + 1 => v.setWidth 8 :: splitBytes (v >>> 8) n

/-- The value of bytes, the least significant first. -/
def joinBytes : List Byte → Word
  | [] => 0
  | b :: bs => (joinBytes bs <<< 8) ||| b.setWidth 32

/-- The order of the bytes of a quantity at rising addresses: the first is the least significant in
little-endian memory, the most significant in big-endian memory (R64). It is its own inverse. -/
def inByteOrder (bigEndian : Bool) (bs : List Byte) : List Byte := if bigEndian then bs.reverse else bs

end Sys2Proof.Machine
end

