-- ==== Sys2Proof/Machine/Ops.lean ====
section
/-! DEFINITION. The named operations: registers, coprocessor 0 with its hazard views, translation and memory
access, the ways a step advances, taking an exception and returning from one. -/

namespace Sys2Proof.Machine

/-- What a step or an instruction answers. -/
abbrev Out := Host.Outcome State Fault Refusal

/-! ## Updates of one part of the state -/

def State.setFlow (s : State) (f : Flow) : State := { s with flow := f }
def State.setCp0 (s : State) (c : Cp0) : State := { s with cp0 := c }
def State.setHz (s : State) (h : Hazards) : State := { s with hz := h }
def State.setHiLo (s : State) (hi lo : Option Word) (unread : Bool) : State :=
  { s with hi := hi, lo := lo, hiloUnread := unread }
def State.setLink (s : State) (bit : Bool) (addr : Word) : State := { s with llBit := bit, llAddr := addr }

/-! ## Free values -/

/-- A free value for one use at this step (log 25). -/
def State.free (s : State) (use : Config.FreeUse) : Word := Config.freeWord use s.draws

/-! ## General registers (10_state.md R21, R23) -/

/-- SRSCtl.CSS, PSS, ESS, HSS (R37). -/
def State.css (s : State) : BitVec 4 := field s.cp0.srsCtl 0 4
def State.pss (s : State) : BitVec 4 := field s.cp0.srsCtl 6 4
def State.ess (s : State) : BitVec 4 := field s.cp0.srsCtl 12 4
def State.hss (s : State) : BitVec 4 := field s.cp0.srsCtl 26 4

/-- `sgpr[set][i]`: register 0 of every set reads 0. -/
def State.sreg (s : State) (set : BitVec 4) (i : Reg) : Word :=
  if i = 0 then 0 else (s.regs[set.toNat]'set.isLt)[i.toNat]'i.isLt

/-- `sgpr[set][i] <- v`: a write to register 0 of any set is discarded. -/
def State.setSreg (s : State) (set : BitVec 4) (i : Reg) (v : Word) : State :=
  if i = 0 then s
  else
    { s with regs := s.regs.set set.toNat ((s.regs[set.toNat]'set.isLt).set i.toNat v i.isLt) set.isLt }

/-- `x[i]`, a register of the current set. -/
def State.reg (s : State) (i : Reg) : Word := s.sreg s.css i

/-- `x[i] <- v`. -/
def State.setReg (s : State) (i : Reg) (v : Word) : State := s.setSreg s.css i v

/-! ## HI and LO (R24, R50(f)) -/

/-- The 64-bit accumulator HI++LO, where both hold a value. -/
def State.acc (s : State) : Option (BitVec 64) :=
  match s.hi, s.lo with
  | some h, some l => some (h ++ l)
  | _, _ => none

/-- A read of HI, LO or the pair, and what follows; no value is a fault (42_multiply_divide.md R189, R190; D32). -/
def withValue {α : Type} (x : Option α) (k : α → Out) : Out :=
  match x with
  | some v => k v
  | none => .fault .noValue

/-- An arithmetic write of the pair, which sets hilo_unread. -/
def State.setAcc (s : State) (v : BitVec 64) : State :=
  s.setHiLo (some (v.extractLsb' 32 32)) (some (v.extractLsb' 0 32)) true

/-! ## Status and Debug bits, mode (R31, R36, 60_exceptions.md R362) -/

def statusIE (st : Word) : Bool := bit st 0
def statusEXL (st : Word) : Bool := bit st 1
def statusERL (st : Word) : Bool := bit st 2
def statusUM (st : Word) : Bool := bit st 4
def statusBEV (st : Word) : Bool := bit st 22
def statusCU0 (st : Word) : Bool := bit st 28

/-- Debug.DM. -/
def State.inDebug (s : State) : Bool := bit s.cp0.debug 30

/-- `KernelMode()` (46_cop0_privileged.md R300). -/
def kernelMode (st : Word) : Bool := !statusUM st || statusEXL st || statusERL st

/-- The processor is in user mode under a Status (R362). -/
def State.userUnder (s : State) (st : Word) : Bool := !s.inDebug && !kernelMode st

/-! ## Coprocessor 0 registers and hazards (R30, 70_reset_and_hazards.md R405 to R408) -/

/-- The register a number and select name: R30's list, the default of the open parameter `CP0Inventory` (R30, D21;
DESIGN CHOICE, log 13). -/
def CpRegOf (rd : BitVec 5) (sel : BitVec 3) : Option CpReg :=
  match rd.toNat, sel.toNat with
  | 7, 0 => some .hwrena
  | 8, 0 => some .badVAddr
  | 9, 0 => some .count
  | 11, 0 => some .compare
  | 12, 0 => some .status
  | 12, 1 => some .intCtl
  | 12, 2 => some .srsCtl
  | 12, 3 => some .srsMap
  | 13, 0 => some .cause
  | 14, 0 => some .epc
  | 15, 0 => some .prid
  | 15, 1 => some .ebase
  | 16, 0 => some .config
  | 16, 1 => some .config1
  | 16, 2 => some .config2
  | 16, 3 => some .config3
  | 17, 0 => some .llAddr
  | 23, 0 => some .debug
  | 24, 0 => some .depc
  | 30, 0 => some .errorEpc
  | 31, 0 => some .desave
  | _, _ => none

/-- The stored word of a register. -/
def State.stored (s : State) : CpReg → Word
  | .hwrena => s.cp0.hwrena
  | .badVAddr => s.cp0.badVAddr
  | .count => s.cp0.count
  | .compare => s.cp0.compare
  | .status => s.cp0.status
  | .intCtl => s.cp0.intCtl
  | .srsCtl => s.cp0.srsCtl
  | .srsMap => s.cp0.srsMap
  | .cause => s.cp0.cause
  | .epc => s.cp0.epc
  | .prid => s.cp0.prid
  | .ebase => s.cp0.ebase
  | .config => s.cp0.config
  | .config1 => s.cp0.config1
  | .config2 => s.cp0.config2
  | .config3 => s.cp0.config3
  | .llAddr => s.llAddr
  | .debug => s.cp0.debug
  | .depc => s.cp0.depc
  | .errorEpc => s.cp0.errorEpc
  | .desave => s.cp0.desave

/-- The registers with one of them stored; LLAddr is written by LL only. -/
def Cp0.store (c : Cp0) (r : CpReg) (v : Word) : Cp0 :=
  match r with
  | .hwrena => { c with hwrena := v }
  | .badVAddr => { c with badVAddr := v }
  | .count => { c with count := v }
  | .compare => { c with compare := v }
  | .status => { c with status := v }
  | .intCtl => { c with intCtl := v }
  | .srsCtl => { c with srsCtl := v }
  | .srsMap => { c with srsMap := v }
  | .cause => { c with cause := v }
  | .epc => { c with epc := v }
  | .prid => { c with prid := v }
  | .ebase => { c with ebase := v }
  | .config => { c with config := v }
  | .config1 => { c with config1 := v }
  | .config2 => { c with config2 := v }
  | .config3 => { c with config3 := v }
  | .llAddr => c
  | .debug => { c with debug := v }
  | .depc => { c with depc := v }
  | .errorEpc => { c with errorEpc := v }
  | .desave => { c with desave := v }

/-- The stored word as it was before the first unbarriered write to the register, or as it is (R408). -/
def State.earlierStored (s : State) (r : CpReg) : Word := (s.hz.hazard.lookup r).getD (s.stored r)

/-- What a consumer sees of the stored word of register r (R405: the old state or the new). Where both give the
same there is no choice; otherwise a free bit decides (log 2). -/
def State.viewedStored {α : Type} [DecidableEq α] (s : State) (r : CpReg) (f : Word → α) : α :=
  if f (s.earlierStored r) = f (s.stored r) then f (s.stored r)
  else if Config.freeBit (.view r) s.draws then f (s.earlierStored r) else f (s.stored r)

/-! ## Cause and the interrupt modes (R32, 60_exceptions.md R352, R353) -/

/-- External-interrupt-controller mode under a Status and a Cause (R353). -/
def State.eicModeUnder (s : State) (st cause : Word) : Bool :=
  bit s.cp0.config3 6 && bit cause 23 && !statusBEV st && s.viewedStored .intCtl (field · 5 5) != 0

/-- External-interrupt-controller mode under a Cause. -/
def State.eicMode (s : State) (cause : Word) : Bool := s.viewedStored .status (s.eicModeUnder · cause)

/-- The request line the timer is merged with, number IntCtl.IPTI (R43, R352). -/
def State.timerLine (s : State) : BitVec 6 := (1#8 <<< (field s.cp0.intCtl 29 3).toNat).extractLsb' 2 6

/-- Cause bits 15:10: the lines with the timer request, or RIPL (R32, R352). -/
def State.requestLines (s : State) (cause : Word) : BitVec 6 :=
  if s.eicMode cause || !bit cause 30 then s.port.lines else s.port.lines ||| s.timerLine

/-- The Cause register that a stored part shows (R32). -/
def State.causeWord (s : State) (stored : Word) : Word :=
  stored ||| (zext s.cp0.causeCE <<< 28) ||| (zext (s.requestLines stored) <<< 10)

/-! ## The registers as instructions see them (R32, R405 to R408) -/

/-- The word a register shows for a stored word: Cause adds CE and the request lines. -/
def State.shown (s : State) (r : CpReg) (stored : Word) : Word :=
  if r = .cause then s.causeWord stored else stored

/-- `CP0[r]`. -/
def State.cpReg (s : State) (r : CpReg) : Word := s.shown r (s.stored r)

/-- The register as it was before the first unbarriered write to it, or as it is (R408). -/
def State.earlierReg (s : State) (r : CpReg) : Word := s.shown r (s.earlierStored r)

/-- What a consumer of register r sees of it, the request lines of Cause included (R405; log 2). -/
def State.viewed {α : Type} [DecidableEq α] (s : State) (r : CpReg) (f : Word → α) : α :=
  s.viewedStored r fun w => f (s.shown r w)

/-- What a fetch sees of Status while an unbarriered write changed the mode (R406, R408; log 2). -/
def State.viewedByFetch {α : Type} [DecidableEq α] (s : State) (f : Word → α) : α :=
  if f (s.hz.ihazard.getD s.cp0.status) = f s.cp0.status then f s.cp0.status
  else if Config.freeBit .fetchView s.draws then f (s.hz.ihazard.getD s.cp0.status) else f s.cp0.status

/-- `NoteHazard(r, s, old)` (R300): the first unbarriered write of a register is recorded with the value before
it, and a Status write that changes UM, EXL or ERL also as an instruction hazard. -/
def noteHazard (h : Hazards) (r : CpReg) (old new : Word) : Hazards :=
  let h := if (h.hazard.lookup r).isSome then h else { h with hazard := (r, old) :: h.hazard }
  if r = .status && h.ihazard.isNone &&
      (statusUM old != statusUM new || statusEXL old != statusEXL new || statusERL old != statusERL new) then
    { h with ihazard := some old }
  else h

/-! ## Why an access or an operation does not complete -/

/-- An exception to raise, a fault or a refusal. -/
inductive Stop where
  | raise (e : Exc)
  | fault (f : Fault)
  | refuse (r : Refusal)
  deriving DecidableEq, Repr

/-! ## Translation and memory access (20_memory.md R61 to R66, R76, R77) -/

inductive Access where
  | fetch | load | store
  deriving DecidableEq, Repr

/-- The fixed mapping of R61, the instance of `Translate` (log 8). -/
def fixedMapping (erl : Bool) (va : Word) : Word :=
  if va < 0x80000000 then (if erl then va else va + 0x40000000)
  else if va < 0xA0000000 then va - 0x80000000
  else if va < 0xC0000000 then va - 0xA0000000
  else va

/-- The cacheability attribute of an access (R61, R62). On a core without caches it has no effect (R73, R75). -/
inductive Cacheability where
  /-- kseg1, and kuseg while ERL = 1. -/
  | uncached
  /-- kseg0: the code in Config.K0 (R45). -/
  | code (k0 : BitVec 3)
  /-- kuseg, kseg2, kseg3: the attribute of the mapping, which the spec does not give (log 8). -/
  | mapped
  deriving DecidableEq, Repr

/-- What `Translate` gives for an address that is permitted (R62). -/
structure Translation where
  pa : Word
  caching : Cacheability
  deriving DecidableEq, Repr

/-- The cacheability of an address by its segment (R61). -/
def State.cacheability (s : State) (erl : Bool) (va : Word) : Cacheability :=
  if va < 0x80000000 then (if erl then .uncached else .mapped)
  else if va < 0xA0000000 then .code (s.viewed .config (field · 0 3))
  else if va < 0xC0000000 then .uncached
  else .mapped

/-- `Translate` under a Status: none is an Address Error, which user mode gets for an address with bit 31 set
(R62). -/
def State.translateUnder (s : State) (va st : Word) : Option Translation :=
  if s.userUnder st && bit va 31 then none
  else some ⟨fixedMapping (statusERL st) va, s.cacheability (statusERL st) va⟩

/-- The translation of a fetch, load or store, with the hazard view of Status that kind of access has (R405,
R406). -/
def State.translate (s : State) (kind : Access) (va : Word) : Option Translation :=
  if kind = .fetch then s.viewedByFetch (s.translateUnder va) else s.viewed .status (s.translateUnder va)

/-- The Address Error of a kind of access (R65, R66). -/
def addressError (kind : Access) (va : Word) : Exc :=
  if kind = .store then .addressErrorStore va else .addressErrorLoad va

/-- What MemMap says of n bytes at a physical address; none: not admitted (R77). A region admits every width that
fits in it (log 9). -/
def placeKind (regions : List Region) (pa n : Nat) : Option RegionKind :=
  (regions.find? fun r => decide (r.base ≤ pa) && decide (pa + n ≤ r.base + r.size)).map Region.kind

/-- The address lies in dseg (R61, R70). -/
def inDseg (va : Word) : Bool := decide (0xFF200000 ≤ va) && decide (va ≤ 0xFF3FFFFF)

/-- The access goes to the debug segment: in Debug Mode, unless Debug.LSNM routes loads and stores to memory
(R36, R61, R363; log 20). -/
def State.toDseg (s : State) (kind : Access) (va : Word) : Bool :=
  s.inDebug && inDseg va && (kind = .fetch || !s.viewed .debug (bit · 28))

/-- The physical place of an access of n bytes at va whose alignment has been checked, the checks in the order of
R64: permission before the bus. -/
def State.place (s : State) (kind : Access) (va : Word) (n : Nat) : Except Stop Nat :=
  if s.toDseg kind va then .error (.refuse .debugSegment)
  else
    match s.translate kind va with
    | none => .error (.raise (addressError kind va))
    | some tr =>
      match placeKind s.platform.memMap tr.pa.toNat n with
      | none => .error (.fault .notAdmitted)
      | some .device => .error (.refuse .deviceAccess)
      | some .readOnly => if kind = .store then .error (.fault .notAdmitted) else .ok tr.pa.toNat
      | some .memory => .ok tr.pa.toNat

/-- Config.BE (R45, R63; log 18). -/
def State.bigEndian (s : State) : Bool := bit s.cp0.config 15

/-- n bytes of memory as a value (R64). -/
def State.loadBytes (s : State) (pa n : Nat) : Word := joinBytes (inByteOrder s.bigEndian (readBytes s.mem pa n))

/-- The cells from a on, n of them, added to a record with their present bytes, unless they are in it. -/
def noteStale (m : Memory) (stale : List Host.Cell) (a : Nat) : Nat → List Host.Cell
  | 0 => stale
  | n + 1 => noteStale m (if (stale.lookup a).isSome then stale else (a, readByte m a) :: stale) (a + 1) n

/-- Bytes stored at a physical address, and recorded as an instruction hazard (R406; log 6). -/
def State.storeBytes (s : State) (pa : Nat) (bs : List Byte) : State :=
  { s with
    mem := writeBytes s.mem pa bs
    hz := { s.hz with staleText := noteStale s.mem s.hz.staleText pa bs.length } }

/-- The address is a multiple of n. -/
def aligned (va : Word) (n : Nat) : Bool := va.toNat % n == 0

/-- `MemRead(addr, n)` (R64). -/
def State.memRead (s : State) (va : Word) (n : Nat) : Except Stop Word :=
  if aligned va n then (s.place .load va n).map fun pa => s.loadBytes pa n
  else .error (.raise (.addressErrorLoad va))

/-- `MemWrite(addr, n, v)` (R64). -/
def State.memWrite (s : State) (va : Word) (n : Nat) (v : Word) : Except Stop State :=
  if aligned va n then
    (s.place .store va n).map fun pa => s.storeBytes pa (inByteOrder s.bigEndian (splitBytes v n))
  else .error (.raise (.addressErrorStore va))

/-- The place of n bytes from `start` on that an unaligned access at `ea` touches, all in one aligned word: an
Address Error reports `ea` (44_load_store.md R246, R251). R251 gives the MemMap check no width: MemMap is asked for
the bytes touched (DESIGN CHOICE, log 9). -/
def State.placeUnaligned (s : State) (kind : Access) (ea start : Word) (n : Nat) : Except Stop Nat :=
  match s.place kind start n with
  | .error (.raise _) => .error (.raise (addressError kind ea))
  | x => x

/-! ## How a step advances (R26) -/

/-- The length of the instruction at an address in an ISA mode (R104). -/
def instrStep (isa : Bool) : Word := if isa then 2 else 4

/-- The end of a delay slot after JR.HB or JALR.HB clears the hazards (R26, R224). -/
def State.afterSlot (s : State) : Hazards := if s.flow.inDs && s.hz.hbPending then Hazards.none else s.hz

/-- `Next`. -/
def State.advance (s : State) : State :=
  (s.setFlow ⟨s.flow.npc, s.flow.npc + instrStep s.flow.npcIsa, s.flow.npcIsa, false, s.flow.npcIsa⟩).setHz s.afterSlot

/-- The instruction is done: `Next`. -/
def retire (s : State) : Out := .next s.advance

/-- `Branch(taken, target)`. -/
def branchTo (taken : Bool) (target : Word) (s : State) : Out :=
  .next (s.setFlow ⟨s.flow.npc, if taken then target else s.flow.npc + 4, s.flow.npcIsa, true, s.flow.npcIsa⟩)

/-- `BranchLikely(taken, target)`: the delay slot of a branch not taken is nullified. -/
def branchLikelyTo (taken : Bool) (target : Word) (s : State) : Out :=
  if taken then branchTo true target s
  else .next (s.setFlow ⟨s.flow.npc + 4, s.flow.npc + 8, s.flow.npcIsa, false, s.flow.npcIsa⟩)

/-- `Jump(target, mode)`. -/
def jumpTo (target : Word) (isa : Bool) (s : State) : Out :=
  .next (s.setFlow ⟨s.flow.npc, target, isa, true, s.flow.npcIsa⟩)

/-- Control at an address at once, in an ISA mode, not in a delay slot. -/
def State.goTo (s : State) (target : Word) (isa : Bool) : State :=
  s.setFlow ⟨target, target + instrStep isa, isa, false, isa⟩

/-- `Return(target, mode)`: bit 0 of the return word is the mode (R306, R307, R333). -/
def State.returnTo (s : State) (word : Word) : State := s.goTo (withIsaBit word false) (bit word 0)

/-- `Next` after a MIPS16e instruction of `len` bytes (47_mips16e_only.md R330). -/
def State.advance16 (s : State) (len : Word) : State :=
  s.setFlow ⟨s.flow.pc + len, s.flow.pc + len + 2, s.flow.isaMode, false, s.flow.isaMode⟩

/-- A MIPS16e instruction of `len` bytes is done. -/
def retire16 (len : Word) (s : State) : Out := .next (s.advance16 len)

/-! ## Taking an exception (60_exceptions.md R350, R351, R356 to R359, R367) -/

/-- The exception code (R350). -/
def excCode : Exc → BitVec 5
  | .interrupt => 0
  | .addressErrorLoad _ => 4
  | .addressErrorStore _ => 5
  | .syscall => 8
  | .breakpoint => 9
  | .reservedInstruction => 10
  | .coprocessorUnusable _ => 11
  | .integerOverflow => 12
  | .trap => 13
  | .debugBreakpoint => 9

/-- The restart address: the branch when the instruction is in its delay slot (R356). -/
def State.restart (s : State) : Word := if s.flow.inDs then s.flow.pc - 4 else s.flow.pc

/-- `{restart[31:1], ISAMode}`, what EPC, ErrorEPC and DEPC receive. -/
def State.returnWord (s : State) : Word := withIsaBit s.restart s.flow.isaMode

/-- An interrupt has a vector of its own: the hardware offers vectored or external-controller mode and it is on
(R353, R356). -/
def State.vectoredInterrupt (s : State) : Bool :=
  (bit s.cp0.config3 5 || bit s.cp0.config3 6) && s.viewed .cause (bit · 23) && !s.viewed .status statusBEV && s.viewed .intCtl (field · 5 5) != 0

/-- External-controller mode at an interrupt (R353). -/
def State.controllerInterrupt (s : State) : Bool := bit s.cp0.config3 6 && s.vectoredInterrupt

/-- The number of the highest bit set in a byte, 0 for none. -/
def highestBit (b : BitVec 8) : Nat :=
  if b.getLsbD 7 then 7 else if b.getLsbD 6 then 6 else if b.getLsbD 5 then 5 else if b.getLsbD 4 then 4
  else if b.getLsbD 3 then 3 else if b.getLsbD 2 then 2 else if b.getLsbD 1 then 1 else 0

/-- The vector number: the controller's, or RIPL when it supplies none; otherwise the highest-numbered request
that is pending and enabled (R353, R356). -/
def State.vectorNumber (s : State) : Nat :=
  if s.controllerInterrupt then (s.port.vector.getD s.port.lines).toNat
  else s.viewed .status fun st => s.viewed .cause fun ca => highestBit (field ca 8 8 &&& field st 8 8)

/-- The vector offset (R356, R358). -/
def State.vectorOffset (s : State) (e : Exc) : Word :=
  if statusEXL s.cp0.status then 0x180
  else if e != .interrupt then 0x180
  else if !s.viewed .cause (bit · 23) then 0x180
  else if !s.vectoredInterrupt then 0x200
  else 0x200 + BitVec.ofNat 32 s.vectorNumber * (zext (s.viewed .intCtl (field · 5 5)) <<< 5)

/-- The register set an exception selects (R353, R356). -/
def State.newSet (s : State) (e : Exc) : BitVec 4 :=
  if e = .interrupt && s.vectoredInterrupt then
    if s.controllerInterrupt then field s.cp0.srsCtl 18 4
    else s.viewed .srsMap fun m => field m (4 * (s.vectorNumber % 8)) 4
  else s.viewed .srsCtl (field · 12 4)

/-- The entry switches register sets (R356). -/
def State.switchesSet (s : State) : Bool :=
  !statusEXL s.cp0.status && s.hss != 0 && !s.viewed .status statusBEV && !statusERL s.cp0.status

/-- The vector address: no carry into bits 31:30 (R356). -/
def State.vectorAddress (s : State) (e : Exc) : Word :=
  let base := if s.viewed .status statusBEV then Config.bevBase else s.viewed .ebase (· &&& 0xFFFFF000)
  base.extractLsb' 30 2 ++ (base + s.vectorOffset e).extractLsb' 0 30

/-- Cause.CE of an exception: the coprocessor's number, free for every other exception (R351; log 16). -/
def State.excCE (s : State) : Exc → BitVec 2
  | .coprocessorUnusable n => n
  | _ => (s.free .causeCE).setWidth 2

/-- The address BadVAddr receives (R351). -/
def badAddress (e : Exc) (old : Word) : Word :=
  match e with
  | .addressErrorLoad a => a
  | .addressErrorStore a => a
  | _ => old

/-- The coprocessor 0 registers after entry to an ordinary exception (R356, R357). -/
def State.entryCp0 (s : State) (e : Exc) : Cp0 :=
  let c := s.cp0
  let nested := statusEXL c.status
  { c with
    epc := if nested then c.epc else s.returnWord
    cause := setField (if nested then c.cause else setBit c.cause 31 s.flow.inDs) 2 (excCode e)
    causeCE := s.excCE e
    badVAddr := badAddress e c.badVAddr
    srsCtl := if s.switchesSet then setField (setField c.srsCtl 6 s.css) 0 (s.newSet e) else c.srsCtl
    status := setBit c.status 1 true }

/-- Entry to an ordinary exception (R356, R357). A register set above HSS is UNPREDICTABLE (R23). -/
def enterOrdinary (e : Exc) (s : State) : Out :=
  if s.switchesSet && decide (s.hss < s.newSet e) then .fault .shadowSetOutOfRange
  else
    .next { (s.goTo (s.vectorAddress e) false) with cp0 := s.entryCp0 e, hz := Hazards.none, waiting := false }

/-- The debug vector (R358, R367). -/
def State.debugVectorAddress (s : State) : Word :=
  if s.platform.probTrap then Config.probeDebugVector else Config.debugVector

/-- What brought the machine into Debug Mode, by its bit of the Debug register (R36, R367). -/
inductive DebugCause where
  | singleStep | softwareBreakpoint | debugInterrupt
  deriving DecidableEq, Repr

def debugCauseBit : DebugCause → Nat
  | .singleStep => 0
  | .softwareBreakpoint => 1
  | .debugInterrupt => 5

/-- The Debug register after entry to Debug Mode (R367): DBD, DM, Doze, Halt, IEXI and the six cause bits. -/
def State.entryDebug (s : State) (c : DebugCause) : Word :=
  let d := setField s.cp0.debug 0 (0#6)
  let d := setBit (setBit d (debugCauseBit c) true) 31 s.flow.inDs
  let d := setBit (setBit d 30 true) 20 true
  setBit (setBit d 27 s.waiting) 26 false

/-- Entry to Debug Mode from outside it (R367; log 20). -/
def enterDebug (c : DebugCause) (s : State) : State :=
  { (s.goTo s.debugVectorAddress false) with
    cp0 := { s.cp0 with depc := s.returnWord, debug := s.entryDebug c }, hz := Hazards.none, waiting := false }

/-- An exception raised inside Debug Mode re-enters the debug vector; DEPC and DBD keep their values (R367). That
BadVAddr keeps its value there, an Address Error included, is the model's choice (DESIGN CHOICE, log 37). -/
def reenterDebug (e : Exc) (s : State) : State :=
  { (s.goTo s.debugVectorAddress false) with
    cp0 := { s.cp0 with debug := setField s.cp0.debug 10 (excCode e) }, hz := Hazards.none, waiting := false }

/-- TAKING AN EXCEPTION: `raise E` (00_scope.md R8). That every exception is entered as the architecture describes
it is the model's choice of the open parameter TrapModel (R5, D13: architectural or stop; DESIGN CHOICE, log 36). -/
def takeException (e : Exc) (s : State) : Out :=
  if s.inDebug then .next (reenterDebug e s)
  else if e = .debugBreakpoint then .next (enterDebug .softwareBreakpoint s)
  else enterOrdinary e s

/-- A stop, taken. -/
def Stop.take (x : Stop) (s : State) : Out :=
  match x with
  | .raise e => takeException e s
  | .fault f => .fault f
  | .refuse r => .refused r

/-- Entry of a soft reset (`soft` true) or a non-maskable interrupt (R359). -/
def enterResetClass (soft : Bool) (s : State) : State :=
  let st := setBit (setBit (setBit s.cp0.status 22 true) 21 false) 2 true
  { (s.goTo Config.resetVector false) with
    cp0 := { s.cp0 with status := setBit (setBit st 20 soft) 19 (!soft), errorEpc := s.returnWord }
    hz := Hazards.none
    waiting := false }

/-- Cold reset of a running machine (R400): the state after reset, with the registers the implementation presets,
the memory and the surroundings as they are, and ErrorEPC the restart address (log 23). -/
def coldReset (s : State) : State :=
  { State.reset with
    cp0 := { Cp0.reset with
      errorEpc := s.returnWord
      intCtl := setField s.cp0.intCtl 5 (0#5)
      srsCtl := s.cp0.srsCtl &&& 0x3C000000
      ebase := 0x80000000 ||| (s.cp0.ebase &&& 0x3FF)
      prid := s.cp0.prid
      config := setField s.cp0.config 0 (0#3)
      config1 := s.cp0.config1
      config2 := s.cp0.config2
      config3 := s.cp0.config3 }
    port := s.port
    platform := s.platform
    inputs := s.inputs
    draws := s.draws
    mem := s.mem }

/-- An access or another operation that may not complete, and what follows when it does. -/
def attempt {α : Type} (x : Except Stop α) (s : State) (k : α → Out) : Out :=
  match x with
  | .error stop => stop.take s
  | .ok a => k a

/-! ## Returning from an exception (46_cop0_privileged.md R306, R307) -/

/-- ERET after its checks: the return word, the level bit, the register set and LLbit. ERET is a barrier, and what
it reads of Status, the return address and SRSCtl is subject to the hazard view (R405, R407). -/
def returnFromException (s : State) : State :=
  let c := s.cp0
  let erl := s.viewed .status statusERL
  let word := if erl then s.viewed .errorEpc id else s.viewed .epc id
  let restoresSet := !erl && s.hss != 0 && !s.viewed .status statusBEV
  { (s.returnTo word) with
    cp0 := { c with
      status := setBit c.status (if erl then 2 else 1) false
      srsCtl := if restoresSet then setField c.srsCtl 0 (s.viewed .srsCtl (field · 6 4)) else c.srsCtl }
    llBit := false
    hz := Hazards.none }

/-- DERET in Debug Mode after its checks: the return word, DM and IEXI. -/
def returnFromDebug (s : State) : State :=
  { (s.returnTo (s.viewed .depc id)) with
    cp0 := { s.cp0 with debug := setBit (setBit s.cp0.debug 30 false) 20 false }
    hz := Hazards.none }

/-! ## Checks shared by instructions -/

/-- A branch, jump, ERET, DERET, WAIT or compact jump must not stand in a delay slot (43_branch_jump.md R200). -/
def outsideSlot (s : State) (k : Out) : Out := if s.flow.inDs then .fault .controlInDelaySlot else k

/-- `CheckCP0Access()` succeeds (R300). -/
def State.cop0Usable (s : State) : Bool :=
  s.inDebug || s.viewed .status fun st => kernelMode st || statusCU0 st

/-- `CheckCP0Access()` and then the instruction (R300). -/
def withCop0 (s : State) (k : Out) : Out :=
  if s.cop0Usable then k else takeException (.coprocessorUnusable 0) s

/-- WAIT (45_trap_system.md R285). -/
def waitOperation (s : State) : Out :=
  outsideSlot s (withCop0 s (.next { s.advance with waiting := true }))

/-- ERET (R306). -/
def eretOperation (s : State) : Out := outsideSlot s (withCop0 s (.next (returnFromException s)))

/-- DERET (R307): a Reserved Instruction outside Debug Mode. -/
def deretOperation (s : State) : Out :=
  outsideSlot s
    (withCop0 s (if s.inDebug then .next (returnFromDebug s) else takeException .reservedInstruction s))

/-- A result for one general register, and the instruction is done. -/
def writeReg (rd : Reg) (v : Word) (s : State) : Out := retire (s.setReg rd v)

/-- A trap instruction: the exception when the condition holds, otherwise nothing (45_trap_system.md). -/
def trapWhen (c : Bool) (s : State) : Out := if c then takeException .trap s else retire s

/-! ## Reading and writing coprocessor 0 registers (R302, R303) -/

/-- What MFC0 delivers: reads of Count and LLAddr are free (R302). -/
def State.readCp0 (s : State) (r : CpReg) : Word :=
  match r with
  | .count => s.free .countRead
  | .llAddr => s.free .llAddrRead
  | r => s.viewed r id

/-- `WriteMask` (R303; for Debug in Debug Mode also R36's IBusEP and DBusEP, by the open parameter of log 40). -/
def State.writeMask (s : State) : CpReg → Word
  | .status => s.platform.statusWriteMask
  | .cause => 0x08C00300
  | .epc => 0xFFFFFFFF
  | .errorEpc => 0xFFFFFFFF
  | .depc => 0xFFFFFFFF
  | .desave => 0xFFFFFFFF
  | .count => 0xFFFFFFFF
  | .compare => 0xFFFFFFFF
  | .intCtl => 0x000003E0
  | .srsCtl => 0x0000F3C0
  | .srsMap => if s.hss = 0 then 0 else 0xFFFFFFFF
  | .ebase => 0x3FFFF000
  | .hwrena => zext s.platform.hwrenaImplMask
  | .config => 0x00000007
  | .debug => if s.inDebug then (if s.platform.busErrorBits then 0x13300100 else 0x12100100) else 0
  | .badVAddr => 0
  | .prid => 0
  | .config1 => 0
  | .config2 => 0
  | .config3 => 0
  | .llAddr => 0

/-- The bits a write can only clear: TS, SR, NMI of Status and WP of Cause (R303), IBusEP of Debug (R36). -/
def clearOnlyMask : CpReg → Word
  | .status => 0x00380000
  | .cause => 0x00400000
  | .debug => 0x01000000
  | _ => 0

/-- The stored word after a write of x (R303). -/
def State.written (s : State) (r : CpReg) (x : Word) : Word :=
  let old := s.stored r
  let m := s.writeMask r
  ((old &&& ~~~m) ||| (x &&& m)) &&& ~~~(clearOnlyMask r &&& ~~~old)

/-- The values of IntCtl.VS that are legal (R43). -/
def legalSpacing (vs : BitVec 5) : Bool := vs == 0 || vs == 1 || vs == 2 || vs == 4 || vs == 8 || vs == 16

/-- Every field of a SRSMap names an existing set. -/
def setsWithin (hss : BitVec 4) (map : Word) : Bool :=
  (List.range 8).all fun v => decide (field map (4 * v) 4 ≤ hss)

/-- What makes a write UNDEFINED (R303). -/
def State.writeFault (s : State) (r : CpReg) (new : Word) : Option Fault :=
  match r with
  | .intCtl => if legalSpacing (field new 5 5) then none else some .illegalVectorSpacing
  | .srsCtl =>
    if decide (field new 12 4 ≤ s.hss) && decide (field new 6 4 ≤ s.hss) then none else some .shadowSetOutOfRange
  | .srsMap => if setsWithin s.hss new then none else some .shadowSetOutOfRange
  | _ => none

/-- The state after MTC0 wrote x to register r: the masked value, the hazard note, and for Compare the timer
request cleared, which is itself not seen for certain until a barrier (R303, R405). -/
def State.writeCp0 (s : State) (r : CpReg) (x : Word) : State :=
  let new := s.written r x
  let c := s.cp0.store r new
  let h := noteHazard s.hz r (s.stored r) new
  if r = .compare then
    (s.setCp0 { c with cause := setBit c.cause 30 false }).setHz
      (if bit c.cause 30 then noteHazard h .cause c.cause (setBit c.cause 30 false) else h)
  else (s.setCp0 c).setHz h

/-! ## Interrupts (60_exceptions.md R354, 45_trap_system.md R285) -/

/-- `Pending()` under a Status and a Cause: also the wake rule of WAIT (log 21). -/
def State.pendingUnder (s : State) (st ca : Word) : Bool :=
  if s.eicModeUnder st ca then decide (field st 10 6 < field ca 10 6) else (field ca 8 8 &&& field st 8 8) != 0

/-- `Enabled()` under a Status. -/
def State.enabledUnder (s : State) (st : Word) : Bool :=
  statusIE st && !statusEXL st && !statusERL st && !s.inDebug

/-- A request is pending, as the core sees Status and Cause. -/
def State.requestPending (s : State) : Bool :=
  s.viewed .status fun st => s.viewed .cause fun ca => s.pendingUnder st ca

/-- `InterruptDue()` but for the oracle's accept bit: Status and Cause that are in `hazard` may be seen old or
new (R408). -/
def State.interruptDue (s : State) : Bool :=
  s.viewed .status fun st => s.viewed .cause fun ca => s.enabledUnder st && s.pendingUnder st ca

end Sys2Proof.Machine
end

