-- ==== Sys2Proof/Machine/Flags.lean ====
section
/-! DEFINITION. Conditions. The machine has no flags (10_state.md R29): what other machines keep in flags is here
the overflow test and the comparisons (40_arithmetic_logic.md R147). -/

namespace Sys2Proof.Machine

/-- `{a[31], a} + {b[31], b}`, 33 bits. -/
def wideSum (a b : Word) : BitVec 33 := a.signExtend 33 + b.signExtend 33

/-- `{a[31], a} - {b[31], b}`, 33 bits. -/
def wideDifference (a b : Word) : BitVec 33 := a.signExtend 33 - b.signExtend 33

/-- The 33-bit result does not fit in 32 bits: its bits 32 and 31 differ. -/
def overflows (t : BitVec 33) : Bool := t.getLsbD 32 != t.getLsbD 31

/-- The low 32 bits of a 33-bit result for register rd, or Integer Overflow and no write (R120, R121, R124). -/
def writeUnlessOverflow (rd : Reg) (t : BitVec 33) (s : State) : Out :=
  if overflows t then takeException .integerOverflow s else writeReg rd (t.setWidth 32) s

/-- `signed(a) < signed(b)`. -/
def signedLess (a b : Word) : Bool := decide (a.toInt < b.toInt)

/-- `unsigned(a) < unsigned(b)`. -/
def unsignedLess (a b : Word) : Bool := decide (a.toNat < b.toNat)

/-- `!Rs[31]`. -/
def atLeastZero (a : Word) : Bool := !bit a 31

/-- `!Rs[31] && Rs != 0`. -/
def aboveZero (a : Word) : Bool := !bit a 31 && a != 0

/-- `Rs[31] or Rs == 0`. -/
def atMostZero (a : Word) : Bool := bit a 31 || a == 0

/-- `Rs[31]`. -/
def belowZero (a : Word) : Bool := bit a 31

end Sys2Proof.Machine
end

