-- ==== Sys2Proof/Machine/Operands.lean ====
section
/-! DEFINITION. The operand forms: immediates, effective addresses, branch and jump targets, shift amounts, bit
fields, the parts of an unaligned word, and the MIPS16e forms. -/

namespace Sys2Proof.Machine

/-! ## Addresses (44_load_store.md R240, 43_branch_jump.md R200, R202, R223) -/

/-- `ea <- x[base] + sext_16(offset)`, modulo 2^32. -/
def State.effectiveAddress (s : State) (base : Reg) (offset : Half) : Word := s.reg base + sext offset

/-- `pc + 4 + sext_18({offset, 0b00})`. -/
def State.branchTarget (s : State) (offset : Half) : Word := s.flow.pc + 4 + sext (offset ++ 0#2)

/-- `{(pc + 4)[31:28], instr_index, 0b00}`. -/
def State.jumpTarget (s : State) (index : BitVec 26) : Word := field (s.flow.pc + 4) 28 4 ++ index ++ 0#2

/-- `pc + 8`, the address after the delay slot. -/
def State.linkAddress (s : State) : Word := s.flow.pc + 8

/-- Control to the address in a register word: bit 0 is the ISA mode, not part of the address. -/
def jumpToWord (t : Word) (s : State) : Out := jumpTo (withIsaBit t false) (bit t 0) s

/-- The barrier of JR.HB and JALR.HB, which acts at the end of the delay slot (R224). -/
def State.setBarrier (s : State) : State := s.setHz { s.hz with hbPending := true }

/-! ## Shift amounts and bit fields (41_shift_nop.md, 40_arithmetic_logic.md R138, R143, R144) -/

/-- The low five bits of a register. -/
def State.shiftAmount (s : State) (rs : Reg) : Nat := (field (s.reg rs) 0 5).toNat

/-- A word of n ones at the right. -/
def lowOnes (n : Nat) : Word := BitVec.allOnes 32 >>> (32 - n)

/-- The field of n bits at lsb, right-justified. -/
def extractField (w : Word) (lsb n : Nat) : Word := (w >>> lsb) &&& lowOnes n

/-- `old` with its field of n bits at lsb replaced by the low n bits of `new`. -/
def insertField (old new : Word) (lsb n : Nat) : Word :=
  (old &&& ~~~(lowOnes n <<< lsb)) ||| ((new &&& lowOnes n) <<< lsb)

/-- How many of the n bits below position n of w, from the left, equal b before the first that differs. -/
def countLeading (b : Bool) (w : Word) : Nat → Nat
  | 0 => 0
  | n + 1 => if bit w n = b then countLeading b w n + 1 else 0

/-! ## The parts of an unaligned word (44_load_store.md R246, R247, R251, R252) -/

/-- How many bytes of the aligned word that holds `ea` belong to the left (more significant) part. -/
def leftCount (bigEndian : Bool) (ea : Word) : Nat :=
  if bigEndian then 4 - (field ea 0 2).toNat else (field ea 0 2).toNat + 1

/-- How many belong to the right (less significant) part. -/
def rightCount (bigEndian : Bool) (ea : Word) : Nat :=
  if bigEndian then (field ea 0 2).toNat + 1 else 4 - (field ea 0 2).toNat

/-- The lowest address of the left part: the aligned word's in little-endian memory, `ea` in big-endian. -/
def leftStart (bigEndian : Bool) (ea : Word) : Word := if bigEndian then ea else alignWord ea

/-- The lowest address of the right part. -/
def rightStart (bigEndian : Bool) (ea : Word) : Word := if bigEndian then alignWord ea else ea

/-- `old` with its n high bytes replaced by the n bytes of a value. -/
def mergeLeft (v old : Word) (n : Nat) : Word := (v <<< (32 - 8 * n)) ||| (old &&& lowOnes (32 - 8 * n))

/-- `old` with its n low bytes replaced by the n bytes of a value. -/
def mergeRight (v old : Word) (n : Nat) : Word := (old &&& ~~~(lowOnes (8 * n))) ||| v

/-! ## MIPS16e operands (47_mips16e_only.md R330, R331, R335) -/

/-- `xlat`: the general register a 3-bit register field names. -/
def xlat (rx : Reg3) : Reg := if rx = 0 then 16 else if rx = 1 then 17 else rx.setWidth 5

/-- `BasePC & 0xFFFFFFFC` (log 33). -/
def State.basePc (s : State) : Word := alignWord s.flow.pc

/-- The displacement of a PC-relative instruction: the 8-bit field times 4, or the signed 16-bit immediate of
the EXTEND form (log 24). -/
def pcDisplacement : PcImm → Word
  | .short i => zext i <<< 2
  | .extended i => sext i

/-- The length of the instruction in bytes. -/
def pcLength : PcImm → Word
  | .short _ => 2
  | .extended _ => 4

/-- The frame size in bytes: 0 stands for 128. -/
def frameBytes (framesize : BitVec 4) : Word := if framesize = 0 then 128 else zext framesize <<< 3

end Sys2Proof.Machine
end

