-- ==== Sys2Proof/Machine/Arithmetic.lean ====
section
/-! DEFINITION. The arithmetic, logical, compare, bit-field and conditional-move instructions (40_arithmetic_logic.md). -/

namespace Sys2Proof.Machine

/-! ## Add and subtract -/

/-- ADD (R120). -/
def execAdd (rd rs rt : Reg) (s : State) : Out := writeUnlessOverflow rd (wideSum (s.reg rs) (s.reg rt)) s

/-- ADDI (R121). -/
def execAddi (rt rs : Reg) (imm : Half) (s : State) : Out := writeUnlessOverflow rt (wideSum (s.reg rs) (sext imm)) s

/-- ADDIU (R122). -/
def execAddiu (rt rs : Reg) (imm : Half) (s : State) : Out := writeReg rt (s.reg rs + sext imm) s

/-- ADDU (R123). -/
def execAddu (rd rs rt : Reg) (s : State) : Out := writeReg rd (s.reg rs + s.reg rt) s

/-- SUB (R124). -/
def execSub (rd rs rt : Reg) (s : State) : Out := writeUnlessOverflow rd (wideDifference (s.reg rs) (s.reg rt)) s

/-- SUBU (R125). -/
def execSubu (rd rs rt : Reg) (s : State) : Out := writeReg rd (s.reg rs - s.reg rt) s

/-! ## Logical -/

/-- AND (R126). -/
def execAnd (rd rs rt : Reg) (s : State) : Out := writeReg rd (s.reg rs &&& s.reg rt) s

/-- ANDI (R127). -/
def execAndi (rt rs : Reg) (imm : Half) (s : State) : Out := writeReg rt (s.reg rs &&& zext imm) s

/-- OR (R128). -/
def execOr (rd rs rt : Reg) (s : State) : Out := writeReg rd (s.reg rs ||| s.reg rt) s

/-- ORI (R129). -/
def execOri (rt rs : Reg) (imm : Half) (s : State) : Out := writeReg rt (s.reg rs ||| zext imm) s

/-- XOR (R130). -/
def execXor (rd rs rt : Reg) (s : State) : Out := writeReg rd (s.reg rs ^^^ s.reg rt) s

/-- XORI (R131). -/
def execXori (rt rs : Reg) (imm : Half) (s : State) : Out := writeReg rt (s.reg rs ^^^ zext imm) s

/-- NOR (R132). -/
def execNor (rd rs rt : Reg) (s : State) : Out := writeReg rd (~~~(s.reg rs ||| s.reg rt)) s

/-- LUI (R133). -/
def execLui (rt : Reg) (imm : Half) (s : State) : Out := writeReg rt (imm ++ 0#16) s

/-! ## Set on less than -/

/-- SLT (R134). -/
def execSlt (rd rs rt : Reg) (s : State) : Out := writeReg rd (flagWord (signedLess (s.reg rs) (s.reg rt))) s

/-- SLTI (R135). -/
def execSlti (rt rs : Reg) (imm : Half) (s : State) : Out :=
  writeReg rt (flagWord (signedLess (s.reg rs) (sext imm))) s

/-- SLTIU (R136): the immediate is sign-extended, then compared as unsigned. -/
def execSltiu (rt rs : Reg) (imm : Half) (s : State) : Out :=
  writeReg rt (flagWord (unsignedLess (s.reg rs) (sext imm))) s

/-- SLTU (R137). -/
def execSltu (rd rs rt : Reg) (s : State) : Out := writeReg rd (flagWord (unsignedLess (s.reg rs) (s.reg rt))) s

/-! ## Count leading bits -/

/-- CLO (R138). -/
def execClo (rd rs rt : Reg) (s : State) : Out :=
  if rt = rd then writeReg rd (BitVec.ofNat 32 (countLeading true (s.reg rs) 32)) s else .fault .countFieldsDiffer

/-- CLZ (R139). -/
def execClz (rd rs rt : Reg) (s : State) : Out :=
  if rt = rd then writeReg rd (BitVec.ofNat 32 (countLeading false (s.reg rs) 32)) s else .fault .countFieldsDiffer

/-! ## Sign extension and byte swap -/

/-- SEB (R140). -/
def execSeb (rd rt : Reg) (s : State) : Out := writeReg rd (sext (field (s.reg rt) 0 8)) s

/-- SEH (R141). -/
def execSeh (rd rt : Reg) (s : State) : Out := writeReg rd (sext (field (s.reg rt) 0 16)) s

/-- WSBH (R142). -/
def execWsbh (rd rt : Reg) (s : State) : Out :=
  let v := s.reg rt
  writeReg rd (field v 16 8 ++ field v 24 8 ++ field v 0 8 ++ field v 8 8) s

/-! ## Bit fields -/

/-- EXT (R143): the field of msbd + 1 bits at lsb. -/
def execExt (rt rs : Reg) (msbd lsb : BitVec 5) (s : State) : Out :=
  if lsb.toNat + msbd.toNat ≤ 31 then writeReg rt (extractField (s.reg rs) lsb.toNat (msbd.toNat + 1)) s
  else .fault .bitFieldOutOfRange

/-- INS (R144): the low msb - lsb + 1 bits of rs replace those of rt at lsb. -/
def execIns (rt rs : Reg) (msb lsb : BitVec 5) (s : State) : Out :=
  if lsb.toNat ≤ msb.toNat then
    writeReg rt (insertField (s.reg rt) (s.reg rs) lsb.toNat (msb.toNat - lsb.toNat + 1)) s
  else .fault .bitFieldOutOfRange

/-! ## Conditional move -/

/-- MOVN (R145). -/
def execMovn (rd rs rt : Reg) (s : State) : Out := if s.reg rt ≠ 0 then writeReg rd (s.reg rs) s else retire s

/-- MOVZ (R146). -/
def execMovz (rd rs rt : Reg) (s : State) : Out := if s.reg rt = 0 then writeReg rd (s.reg rs) s else retire s

end Sys2Proof.Machine
end

