-- ==== Sys2Proof/Machine/Branch.lean ====
section
/-! DEFINITION. The branches and jumps (43_branch_jump.md). -/

namespace Sys2Proof.Machine

/-- A branch: its condition is evaluated, then the result is `Branch` (R200). -/
def branchOn (c : Bool) (offset : Half) (s : State) : Out := outsideSlot s (branchTo c (s.branchTarget offset) s)

/-- A likely branch (R201). -/
def likelyOn (c : Bool) (offset : Half) (s : State) : Out :=
  outsideSlot s (branchLikelyTo c (s.branchTarget offset) s)

/-- The link register is written whether or not the branch is taken (R202). -/
def State.linked (s : State) : State := s.setReg 31 s.linkAddress

/-- A linking branch must not read register 31 (R202). -/
def linkFrom (rs : Reg) (k : Out) : Out := if rs = 31 then .fault .linkRegisterAsSource else k

/-! ## Unconditional branches -/

/-- B (R203). -/
def execB (offset : Half) (s : State) : Out := branchOn true offset s

/-- BAL (R204). -/
def execBal (offset : Half) (s : State) : Out := branchOn true offset s.linked

/-! ## Conditional branches -/

/-- BEQ (R205). -/
def execBeq (rs rt : Reg) (offset : Half) (s : State) : Out := branchOn (s.reg rs == s.reg rt) offset s

/-- BNE (R206). -/
def execBne (rs rt : Reg) (offset : Half) (s : State) : Out := branchOn (s.reg rs != s.reg rt) offset s

/-- BGEZ (R207). -/
def execBgez (rs : Reg) (offset : Half) (s : State) : Out := branchOn (atLeastZero (s.reg rs)) offset s

/-- BGTZ (R208). -/
def execBgtz (rs : Reg) (offset : Half) (s : State) : Out := branchOn (aboveZero (s.reg rs)) offset s

/-- BLEZ (R209). -/
def execBlez (rs : Reg) (offset : Half) (s : State) : Out := branchOn (atMostZero (s.reg rs)) offset s

/-- BLTZ (R210). -/
def execBltz (rs : Reg) (offset : Half) (s : State) : Out := branchOn (belowZero (s.reg rs)) offset s

/-! ## Conditional branches that link -/

/-- BGEZAL (R211). -/
def execBgezal (rs : Reg) (offset : Half) (s : State) : Out :=
  linkFrom rs (branchOn (atLeastZero (s.reg rs)) offset s.linked)

/-- BLTZAL (R212). -/
def execBltzal (rs : Reg) (offset : Half) (s : State) : Out :=
  linkFrom rs (branchOn (belowZero (s.reg rs)) offset s.linked)

/-! ## Likely branches -/

/-- BEQL (R213). -/
def execBeql (rs rt : Reg) (offset : Half) (s : State) : Out := likelyOn (s.reg rs == s.reg rt) offset s

/-- BNEL (R214). -/
def execBnel (rs rt : Reg) (offset : Half) (s : State) : Out := likelyOn (s.reg rs != s.reg rt) offset s

/-- BGEZL (R215). -/
def execBgezl (rs : Reg) (offset : Half) (s : State) : Out := likelyOn (atLeastZero (s.reg rs)) offset s

/-- BGTZL (R216). -/
def execBgtzl (rs : Reg) (offset : Half) (s : State) : Out := likelyOn (aboveZero (s.reg rs)) offset s

/-- BLEZL (R217). -/
def execBlezl (rs : Reg) (offset : Half) (s : State) : Out := likelyOn (atMostZero (s.reg rs)) offset s

/-- BLTZL (R218). -/
def execBltzl (rs : Reg) (offset : Half) (s : State) : Out := likelyOn (belowZero (s.reg rs)) offset s

/-- BGEZALL (R219). -/
def execBgezall (rs : Reg) (offset : Half) (s : State) : Out :=
  linkFrom rs (likelyOn (atLeastZero (s.reg rs)) offset s.linked)

/-- BLTZALL (R220). -/
def execBltzall (rs : Reg) (offset : Half) (s : State) : Out :=
  linkFrom rs (likelyOn (belowZero (s.reg rs)) offset s.linked)

/-! ## Jumps -/

/-- J (R221). -/
def execJ (index : BitVec 26) (s : State) : Out := outsideSlot s (jumpTo (s.jumpTarget index) s.flow.isaMode s)

/-- JAL (R222). -/
def execJal (index : BitVec 26) (s : State) : Out :=
  outsideSlot s (jumpTo (s.jumpTarget index) s.flow.isaMode s.linked)

/-- JR (R223). -/
def execJr (rs : Reg) (s : State) : Out := outsideSlot s (jumpToWord (s.reg rs) s)

/-- JR.HB (R224). -/
def execJrHb (rs : Reg) (s : State) : Out := outsideSlot s (jumpToWord (s.reg rs) s.setBarrier)

/-- JALR (R225): the target is read before the link is written. -/
def execJalr (rd rs : Reg) (s : State) : Out :=
  if rs = rd then .fault .jumpAndLinkSameRegister
  else outsideSlot s (jumpToWord (s.reg rs) (s.setReg rd s.linkAddress))

/-- JALR.HB (R226). -/
def execJalrHb (rd rs : Reg) (s : State) : Out :=
  if rs = rd then .fault .jumpAndLinkSameRegister
  else outsideSlot s (jumpToWord (s.reg rs) (s.setReg rd s.linkAddress).setBarrier)

end Sys2Proof.Machine
end

