-- ==== Sys2Proof/Machine/Cop0.lean ====
section
/-! DEFINITION. The coprocessor 0 and privileged instructions (46_cop0_privileged.md). -/

namespace Sys2Proof.Machine

/-! ## The class row -/

/-- COP0 (R301): the functions that have a row of their own act as that row, the TLB operations are refused,
every other function is a Reserved Instruction. -/
def execCop0 (cofun : BitVec 25) (s : State) : Out :=
  if cofun.extractLsb' 0 6 = 0x20 then waitOperation s
  else if cofun = 0x18 then eretOperation s
  else if cofun = 0x1F then deretOperation s
  else
    withCop0 s
      (if cofun = 0x01 || cofun = 0x02 || cofun = 0x06 || cofun = 0x08 then .refused .tlbOperation
       else takeException .reservedInstruction s)

/-! ## Moves -/

/-- MFC0 (R302). A register that is not there reads as a free value (log 5). -/
def execMfc0 (rt : Reg) (rd : BitVec 5) (sel : BitVec 3) (s : State) : Out :=
  withCop0 s
    (match CpRegOf rd sel with
     | some r => writeReg rt (s.readCp0 r) s
     | none => writeReg rt (s.free .absentCp0) s)

/-- MTC0 (R303). A write to a register that is not there is ignored (log 5). -/
def execMtc0 (rt : Reg) (rd : BitVec 5) (sel : BitVec 3) (s : State) : Out :=
  withCop0 s
    (match CpRegOf rd sel with
     | some r =>
       match s.writeFault r (s.written r (s.reg rt)) with
       | some f => .fault f
       | none => retire (s.writeCp0 r (s.reg rt))
     | none => retire s)

/-! ## Interrupt enable and disable -/

/-- The read of Status into rt and the write of its IE bit, which DI and EI do as one. -/
def setInterruptEnable (enable : Bool) (rt : Reg) (s : State) : Out :=
  let old := s.cp0.status
  let new := setBit old 0 enable
  withCop0 s
    (writeReg rt (s.viewed .status id)
      ((s.setCp0 { s.cp0 with status := new }).setHz (noteHazard s.hz .status old new)))

/-- DI (R304). -/
def execDi (rt : Reg) (s : State) : Out := setInterruptEnable false rt s

/-- EI (R305). -/
def execEi (rt : Reg) (s : State) : Out := setInterruptEnable true rt s

/-! ## Returns from exception -/

/-- ERET (R306). -/
def execEret (s : State) : Out := eretOperation s

/-- DERET (R307). -/
def execDeret (s : State) : Out := deretOperation s

/-! ## Hardware registers -/

/-- Hardware register rd exists (R308). -/
def State.hwrExists (s : State) (rd : BitVec 5) : Bool :=
  decide (rd.toNat ≤ 3) && s.platform.hwrenaImplMask.getLsbD rd.toNat

/-- RDHWR may read hardware register rd: it exists, and the mode or HWREna allows it (R308). -/
def State.hwrAllowed (s : State) (rd : BitVec 5) : Bool :=
  s.hwrExists rd &&
    (s.inDebug || s.viewed .status (fun st => kernelMode st || statusCU0 st) ||
      s.viewed .hwrena (bit · rd.toNat))

/-- The hardware registers (R48, R308): CPUNum, SYNCI_Step, CC, CCRes. -/
def State.hwr (s : State) (rd : BitVec 5) : Word :=
  if rd = 0 then s.viewed .ebase (fun e => zext (field e 0 10))
  else if rd = 1 then s.platform.synciStep
  else if rd = 2 then s.free .countRead
  else s.platform.ccRes

/-- RDHWR (R308). -/
def execRdhwr (rt : Reg) (rd : BitVec 5) (s : State) : Out :=
  if s.hwrAllowed rd then writeReg rt (s.hwr rd) s else takeException .reservedInstruction s

/-! ## Shadow register sets -/

/-- RDPGPR (R309). -/
def execRdpgpr (rd rt : Reg) (s : State) : Out :=
  withCop0 s (writeReg rd (s.sreg (s.viewed .srsCtl (field · 6 4)) rt) s)

/-- WRPGPR (R310). -/
def execWrpgpr (rd rt : Reg) (s : State) : Out :=
  withCop0 s (retire (s.setSreg (s.viewed .srsCtl (field · 6 4)) rd (s.reg rt)))

end Sys2Proof.Machine
end

