-- ==== Sys2Proof/Machine/LoadStore.lean ====
section
/-! DEFINITION. Loads, stores, load-linked, store-conditional and SYNC (44_load_store.md). -/

namespace Sys2Proof.Machine

/-- A load: the value read and extended replaces the register; on an exception nothing is written (R240). -/
def loadTo (rt : Reg) (ea : Word) (n : Nat) (extend : Word → Word) (s : State) : Out :=
  attempt (s.memRead ea n) s fun v => writeReg rt (extend v) s

/-- A store of the low n bytes of a register (R240). -/
def storeFrom (rt : Reg) (ea : Word) (n : Nat) (s : State) : Out :=
  attempt (s.memWrite ea n (s.reg rt)) s retire

/-! ## Loads -/

/-- LB (R241). -/
def execLb (rt : Reg) (offset : Half) (base : Reg) (s : State) : Out :=
  loadTo rt (s.effectiveAddress base offset) 1 (fun v => sext (field v 0 8)) s

/-- LBU (R242). -/
def execLbu (rt : Reg) (offset : Half) (base : Reg) (s : State) : Out :=
  loadTo rt (s.effectiveAddress base offset) 1 (fun v => zext (field v 0 8)) s

/-- LH (R243). -/
def execLh (rt : Reg) (offset : Half) (base : Reg) (s : State) : Out :=
  loadTo rt (s.effectiveAddress base offset) 2 (fun v => sext (field v 0 16)) s

/-- LHU (R244). -/
def execLhu (rt : Reg) (offset : Half) (base : Reg) (s : State) : Out :=
  loadTo rt (s.effectiveAddress base offset) 2 (fun v => zext (field v 0 16)) s

/-- LW (R245). -/
def execLw (rt : Reg) (offset : Half) (base : Reg) (s : State) : Out :=
  loadTo rt (s.effectiveAddress base offset) 4 id s

/-! ## Unaligned word access: only the bytes named are read or written -/

/-- LWL (R246). -/
def execLwl (rt : Reg) (offset : Half) (base : Reg) (s : State) : Out :=
  let ea := s.effectiveAddress base offset
  let n := leftCount s.bigEndian ea
  attempt (s.placeUnaligned .load ea (leftStart s.bigEndian ea) n) s fun pa =>
    writeReg rt (mergeLeft (s.loadBytes pa n) (s.reg rt) n) s

/-- LWR (R247). -/
def execLwr (rt : Reg) (offset : Half) (base : Reg) (s : State) : Out :=
  let ea := s.effectiveAddress base offset
  let n := rightCount s.bigEndian ea
  attempt (s.placeUnaligned .load ea (rightStart s.bigEndian ea) n) s fun pa =>
    writeReg rt (mergeRight (s.loadBytes pa n) (s.reg rt) n) s

/-- SWL (R251): the n most significant bytes of rt. -/
def execSwl (rt : Reg) (offset : Half) (base : Reg) (s : State) : Out :=
  let ea := s.effectiveAddress base offset
  let n := leftCount s.bigEndian ea
  attempt (s.placeUnaligned .store ea (leftStart s.bigEndian ea) n) s fun pa =>
    retire (s.storeBytes pa (inByteOrder s.bigEndian (splitBytes (s.reg rt >>> (32 - 8 * n)) n)))

/-- SWR (R252): the n least significant bytes of rt. -/
def execSwr (rt : Reg) (offset : Half) (base : Reg) (s : State) : Out :=
  let ea := s.effectiveAddress base offset
  let n := rightCount s.bigEndian ea
  attempt (s.placeUnaligned .store ea (rightStart s.bigEndian ea) n) s fun pa =>
    retire (s.storeBytes pa (inByteOrder s.bigEndian (splitBytes (s.reg rt) n)))

/-! ## Stores -/

/-- SB (R248). -/
def execSb (rt : Reg) (offset : Half) (base : Reg) (s : State) : Out :=
  storeFrom rt (s.effectiveAddress base offset) 1 s

/-- SH (R249). -/
def execSh (rt : Reg) (offset : Half) (base : Reg) (s : State) : Out :=
  storeFrom rt (s.effectiveAddress base offset) 2 s

/-- SW (R250). -/
def execSw (rt : Reg) (offset : Half) (base : Reg) (s : State) : Out :=
  storeFrom rt (s.effectiveAddress base offset) 4 s

/-! ## Load-linked and store-conditional -/

/-- LL (R253). -/
def execLl (rt : Reg) (offset : Half) (base : Reg) (s : State) : Out :=
  let ea := s.effectiveAddress base offset
  attempt (s.memRead ea 4) s fun v => writeReg rt v (s.setLink true ea)

/-- SC (R254): the address is checked even when LLbit is 0; the register receives LLbit in both cases. -/
def execSc (rt : Reg) (offset : Half) (base : Reg) (s : State) : Out :=
  let ea := s.effectiveAddress base offset
  if !aligned ea 4 || (s.translate .store ea).isNone then takeException (.addressErrorStore ea) s
  else if !s.llBit then writeReg rt 0 s
  else if ea ≠ s.llAddr then .fault .scAddressMismatch
  else attempt (s.memWrite ea 4 (s.reg rt)) s fun s => writeReg rt 1 s

/-- SYNC (R255): every access is complete already; any stype acts as 0. -/
def execSync (_stype : BitVec 5) (s : State) : Out := retire s

end Sys2Proof.Machine
end

