-- ==== Sys2Proof/Machine/Mips16.lean ====
section
/-! DEFINITION. The MIPS16e-only instructions (47_mips16e_only.md; log 3). -/

namespace Sys2Proof.Machine

/-! ## PC-relative -/

/-- ADDIUPC (R331; log 24 for the EXTEND form). -/
def execAddiupc (rx : Reg3) (imm : PcImm) (s : State) : Out :=
  retire16 (pcLength imm) (s.setReg (xlat rx) (s.basePc + pcDisplacement imm))

/-- LWPC (R332; log 24 for the EXTEND form). -/
def execLwpc (rx : Reg3) (imm : PcImm) (s : State) : Out :=
  attempt (s.memRead (s.basePc + pcDisplacement imm) 4) s fun v => retire16 (pcLength imm) (s.setReg (xlat rx) v)

/-! ## Compact jumps -/

/-- JALRC (R333): the target is read before register 31 receives `pc + 2` with the ISA mode in bit 0. -/
def execJalrc (rx : Reg3) (s : State) : Out :=
  outsideSlot s (.next ((s.setReg 31 (withIsaBit (s.flow.pc + 2) true)).returnTo (s.reg (xlat rx))))

/-- JRC (R334). -/
def execJrc (target : JrcTarget) (s : State) : Out :=
  outsideSlot s
    (match target with
     | .rx rx => .next (s.returnTo (s.reg (xlat rx)))
     | .ra => .next (s.returnTo (s.reg 31)))

/-! ## Stack frames: what is stored or loaded before a fault stays done, register 29 is unchanged then -/

/-- One store of SAVE below `a`, if it is wanted, and what follows with the address then reached. With no register
wanted there is no access and so no Address Error, whatever register 29 holds, as the pseudocode of R335 has it
(DESIGN CHOICE, log 38). -/
def pushReg (wanted : Bool) (r : Reg) (a : Word) (s : State) (k : Word → State → Out) : Out :=
  if wanted then attempt (s.memWrite (a - 4) 4 (s.reg r)) s (k (a - 4)) else k a s

/-- One load of RESTORE below `a`, if it is wanted, and what follows with the address then reached; with no register
wanted, no access (R336; DESIGN CHOICE, log 38). -/
def popReg (wanted : Bool) (r : Reg) (a : Word) (s : State) (k : Word → State → Out) : Out :=
  if wanted then attempt (s.memRead (a - 4) 4) s fun v => k (a - 4) (s.setReg r v) else k a s

/-- SAVE (R335): ra, then s1, then s0 below the old stack pointer, which then moves down. -/
def execSave (ra s0 s1 : Bool) (framesize : BitVec 4) (s : State) : Out :=
  pushReg ra 31 (s.reg 29) s fun a s1st =>
    pushReg s1 17 a s1st fun a s2nd =>
      pushReg s0 16 a s2nd fun _ s3rd => retire16 2 (s3rd.setReg 29 (s.reg 29 - frameBytes framesize))

/-- RESTORE (R336): the inverse of SAVE; register 29 is written last. -/
def execRestore (ra s0 s1 : Bool) (framesize : BitVec 4) (s : State) : Out :=
  let top := s.reg 29 + frameBytes framesize
  popReg ra 31 top s fun a s1st =>
    popReg s1 17 a s1st fun a s2nd =>
      popReg s0 16 a s2nd fun _ s3rd => retire16 2 (s3rd.setReg 29 top)

/-! ## Zero extension -/

/-- ZEB (R337). -/
def execZeb (rx : Reg3) (s : State) : Out :=
  retire16 2 (s.setReg (xlat rx) (zext (field (s.reg (xlat rx)) 0 8)))

/-- ZEH (R338). -/
def execZeh (rx : Reg3) (s : State) : Out :=
  retire16 2 (s.setReg (xlat rx) (zext (field (s.reg (xlat rx)) 0 16)))

end Sys2Proof.Machine
end

