-- ==== Sys2Proof/Machine/MulDiv.lean ====
section
/-! DEFINITION. Multiply, multiply-accumulate, divide, and the moves to and from HI and LO (42_multiply_divide.md). -/

namespace Sys2Proof.Machine

/-- `sext_32to64(a) * sext_32to64(b)` modulo 2^64 (R193). -/
def signedProduct (a b : Word) : BitVec 64 := a.signExtend 64 * b.signExtend 64

/-- The unsigned 64-bit product (R193). -/
def unsignedProduct (a b : Word) : BitVec 64 := a.setWidth 64 * b.setWidth 64

/-- The quotient rounded toward zero (R193). -/
def signedQuotient (a b : Word) : Word := BitVec.ofInt 32 (a.toInt.tdiv b.toInt)

/-- The remainder that goes with it, of the sign of the dividend (R193). -/
def signedRemainder (a b : Word) : Word := BitVec.ofInt 32 (a.toInt - a.toInt.tdiv b.toInt * b.toInt)

/-- LO and HI after a division; hilo_unread is set. -/
def setQuotient (lo hi : Word) (s : State) : State := s.setHiLo (some hi) (some lo) true

/-- LO and HI after a division without a defined result: two free values (log 15). -/
def setOpenQuotient (s : State) : State := setQuotient (s.free .divLo) (s.free .divHi) s

/-! ## Multiply -/

/-- MULT (R180). -/
def execMult (rs rt : Reg) (s : State) : Out := retire (s.setAcc (signedProduct (s.reg rs) (s.reg rt)))

/-- MULTU (R181). -/
def execMultu (rs rt : Reg) (s : State) : Out := retire (s.setAcc (unsignedProduct (s.reg rs) (s.reg rt)))

/-- MUL (R182): HI and LO hold no value afterwards. -/
def execMul (rd rs rt : Reg) (s : State) : Out :=
  writeReg rd ((signedProduct (s.reg rs) (s.reg rt)).setWidth 32) (s.setHiLo none none false)

/-! ## Multiply-accumulate -/

/-- MADD (R183). -/
def execMadd (rs rt : Reg) (s : State) : Out :=
  withValue s.acc fun a => retire (s.setAcc (a + signedProduct (s.reg rs) (s.reg rt)))

/-- MADDU (R184). -/
def execMaddu (rs rt : Reg) (s : State) : Out :=
  withValue s.acc fun a => retire (s.setAcc (a + unsignedProduct (s.reg rs) (s.reg rt)))

/-- MSUB (R185). -/
def execMsub (rs rt : Reg) (s : State) : Out :=
  withValue s.acc fun a => retire (s.setAcc (a - signedProduct (s.reg rs) (s.reg rt)))

/-- MSUBU (R186). -/
def execMsubu (rs rt : Reg) (s : State) : Out :=
  withValue s.acc fun a => retire (s.setAcc (a - unsignedProduct (s.reg rs) (s.reg rt)))

/-! ## Divide -/

/-- DIV (R187). -/
def execDiv (rs rt : Reg) (s : State) : Out :=
  let n := s.reg rs
  let d := s.reg rt
  if d = 0 || n = 0x80000000 && d = 0xFFFFFFFF then retire (setOpenQuotient s)
  else retire (setQuotient (signedQuotient n d) (signedRemainder n d) s)

/-- DIVU (R188). -/
def execDivu (rs rt : Reg) (s : State) : Out :=
  let n := s.reg rs
  let d := s.reg rt
  if d = 0 then retire (setOpenQuotient s)
  else retire (setQuotient (BitVec.ofNat 32 (n.toNat / d.toNat)) (BitVec.ofNat 32 (n.toNat % d.toNat)) s)

/-! ## Moves to and from HI and LO -/

/-- MFHI (R189). -/
def execMfhi (rd : Reg) (s : State) : Out := withValue s.hi fun v => writeReg rd v (s.setHiLo s.hi s.lo false)

/-- MFLO (R190). -/
def execMflo (rd : Reg) (s : State) : Out := withValue s.lo fun v => writeReg rd v (s.setHiLo s.hi s.lo false)

/-- MTHI (R191): after an unread arithmetic result LO holds no value. -/
def execMthi (rs : Reg) (s : State) : Out :=
  retire (s.setHiLo (some (s.reg rs)) (if s.hiloUnread then none else s.lo) false)

/-- MTLO (R192): after an unread arithmetic result HI holds no value. -/
def execMtlo (rs : Reg) (s : State) : Out :=
  retire (s.setHiLo (if s.hiloUnread then none else s.hi) (some (s.reg rs)) false)

end Sys2Proof.Machine
end

