-- ==== Sys2Proof/Machine/Shift.lean ====
section
/-! DEFINITION. The shifts and rotates, NOP, SSNOP and EHB (41_shift_nop.md). -/

namespace Sys2Proof.Machine

/-! ## Shifts -/

/-- SLL (R160). -/
def execSll (rd rt : Reg) (sa : BitVec 5) (s : State) : Out := writeReg rd (s.reg rt <<< sa.toNat) s

/-- SLLV (R161). -/
def execSllv (rd rt rs : Reg) (s : State) : Out := writeReg rd (s.reg rt <<< s.shiftAmount rs) s

/-- SRL (R162). -/
def execSrl (rd rt : Reg) (sa : BitVec 5) (s : State) : Out := writeReg rd (s.reg rt >>> sa.toNat) s

/-- SRLV (R163). -/
def execSrlv (rd rt rs : Reg) (s : State) : Out := writeReg rd (s.reg rt >>> s.shiftAmount rs) s

/-- SRA (R164). -/
def execSra (rd rt : Reg) (sa : BitVec 5) (s : State) : Out := writeReg rd ((s.reg rt).sshiftRight sa.toNat) s

/-- SRAV (R165). -/
def execSrav (rd rt rs : Reg) (s : State) : Out := writeReg rd ((s.reg rt).sshiftRight (s.shiftAmount rs)) s

/-! ## Rotates -/

/-- ROTR (R166). -/
def execRotr (rd rt : Reg) (sa : BitVec 5) (s : State) : Out := writeReg rd ((s.reg rt).rotateRight sa.toNat) s

/-- ROTRV (R167): the amount is the low five bits of rs. -/
def execRotrv (rd rt rs : Reg) (s : State) : Out := writeReg rd ((s.reg rt).rotateRight (s.shiftAmount rs)) s

/-! ## No-operations and the execution hazard barrier -/

/-- NOP (R168). -/
def execNop (s : State) : Out := retire s

/-- SSNOP (R169, R409). -/
def execSsnop (s : State) : Out := retire s

/-- EHB (R170): the execution hazards are cleared, not the instruction hazards. -/
def execEhb (s : State) : Out := retire (s.setHz { s.hz with hazard := [] })

end Sys2Proof.Machine
end

