-- ==== Sys2Proof/Machine/Trap.lean ====
section
/-! DEFINITION. SYSCALL, BREAK, SDBBP, the conditional traps and WAIT (45_trap_system.md). -/

namespace Sys2Proof.Machine

/-! ## Unconditional -/

/-- SYSCALL (R270): the code is not interpreted. -/
def execSyscall (_code : BitVec 20) (s : State) : Out := takeException .syscall s

/-- BREAK (R271). -/
def execBreak (_code : BitVec 20) (s : State) : Out := takeException .breakpoint s

/-- SDBBP (R272). -/
def execSdbbp (_code : BitVec 20) (s : State) : Out := takeException .debugBreakpoint s

/-! ## Traps on two registers -/

/-- TEQ (R273). -/
def execTeq (rs rt : Reg) (_code : BitVec 10) (s : State) : Out := trapWhen (s.reg rs == s.reg rt) s

/-- TNE (R274). -/
def execTne (rs rt : Reg) (_code : BitVec 10) (s : State) : Out := trapWhen (s.reg rs != s.reg rt) s

/-- TGE (R275). -/
def execTge (rs rt : Reg) (_code : BitVec 10) (s : State) : Out := trapWhen (!signedLess (s.reg rs) (s.reg rt)) s

/-- TGEU (R276). -/
def execTgeu (rs rt : Reg) (_code : BitVec 10) (s : State) : Out :=
  trapWhen (!unsignedLess (s.reg rs) (s.reg rt)) s

/-- TLT (R277). -/
def execTlt (rs rt : Reg) (_code : BitVec 10) (s : State) : Out := trapWhen (signedLess (s.reg rs) (s.reg rt)) s

/-- TLTU (R278). -/
def execTltu (rs rt : Reg) (_code : BitVec 10) (s : State) : Out := trapWhen (unsignedLess (s.reg rs) (s.reg rt)) s

/-! ## Traps on a register and an immediate, which is sign-extended in all six -/

/-- TEQI (R279). -/
def execTeqi (rs : Reg) (imm : Half) (s : State) : Out := trapWhen (s.reg rs == sext imm) s

/-- TNEI (R280). -/
def execTnei (rs : Reg) (imm : Half) (s : State) : Out := trapWhen (s.reg rs != sext imm) s

/-- TGEI (R281). -/
def execTgei (rs : Reg) (imm : Half) (s : State) : Out := trapWhen (!signedLess (s.reg rs) (sext imm)) s

/-- TGEIU (R282). -/
def execTgeiu (rs : Reg) (imm : Half) (s : State) : Out := trapWhen (!unsignedLess (s.reg rs) (sext imm)) s

/-- TLTI (R283). -/
def execTlti (rs : Reg) (imm : Half) (s : State) : Out := trapWhen (signedLess (s.reg rs) (sext imm)) s

/-- TLTIU (R284). -/
def execTltiu (rs : Reg) (imm : Half) (s : State) : Out := trapWhen (unsignedLess (s.reg rs) (sext imm)) s

/-! ## WAIT -/

/-- WAIT (R285): the wait begins; `step` holds the processor until a wake event. The code is not interpreted. -/
def execWait (_code : BitVec 19) (s : State) : Out := waitOperation s

end Sys2Proof.Machine
end

