-- ==== Sys2Proof/Machine/Fetch.lean ====
section
/-! DEFINITION. What surrounds the execution of an instruction: the input of a step, the events taken between
instructions, the fetch and its decoding (10_state.md R26; 60_exceptions.md R352, R354, R355; 20_memory.md R66). -/

namespace Sys2Proof.Machine

/-! ## The input of a step (log 7) -/

/-- An input that presents nothing new: the lines keep their level, a due interrupt is taken. -/
def State.quietInput (s : State) : StepInput where
  lines := s.port.lines
  vector := s.port.vector
  eicss := field s.cp0.srsCtl 18 4
  accept := true
  timer := false
  clearLL := false
  event := none

/-- The input of the next step: the first of the schedule, or the quiet one when the schedule has ended. -/
def State.nextInput (s : State) : StepInput := s.inputs.headD s.quietInput

/-- Count runs: not while Cause.DC is 1 nor, in Debug Mode, while Debug.CountDM is 0 (R364). -/
def State.counting (s : State) : Bool :=
  !s.viewed .cause (bit · 27) && (!s.inDebug || s.viewed .debug (bit · 25))

/-- The state in which a step begins: the input is read, the count of steps advances. -/
def State.observe (s : State) : State :=
  let i := s.nextInput
  { s with
    inputs := s.inputs.tail
    draws := s.draws + 1
    port := ⟨i.lines, i.vector⟩
    llBit := s.llBit && !i.clearLL
    cp0 := { s.cp0 with
      srsCtl := setField s.cp0.srsCtl 18 i.eicss
      cause := if i.timer && s.counting then setBit s.cp0.cause 30 true else s.cp0.cause } }

/-! ## Events between instructions (R285, R354, R355) -/

/-- A single-step debug exception is due (R355 rank 3, R367; log 19). -/
def State.singleStepDue (s : State) : Bool :=
  s.viewed .debug (bit · 8) && !s.inDebug && s.stepped && !s.flow.inDs

/-- An event that ends a WAIT (R285; log 21). -/
def State.wakes (s : State) (i : StepInput) : Bool := i.event.isSome || s.requestPending

/-- The event taken before the instruction at pc, the highest of R355 that is present; none: the instruction
itself. A debug interrupt or an NMI presented in Debug Mode is not taken and not remembered (DESIGN CHOICE,
log 4). -/
def State.eventTaken (s : State) (i : StepInput) : Option Out :=
  if i.event = some .reset then some (.next (coldReset s))
  else if i.event = some .softReset then some (.next (enterResetClass true s))
  else if s.singleStepDue then some (.next (enterDebug .singleStep s))
  else if i.event = some .debugInterrupt && !s.inDebug then some (.next (enterDebug .debugInterrupt s))
  else if i.event = some .nmi && !s.inDebug then some (.next (enterResetClass false s))
  else if i.accept && s.interruptDue then some (takeException .interrupt s)
  else none

/-- The state in which an instruction begins: a wait is over. -/
def State.begin (s : State) : State := { s with waiting := false, stepped := !s.inDebug }

/-! ## Fetch (R66, R74, R104) -/

/-- The byte that a fetch sees at a physical address: of a byte stored to since the last instruction-hazard
barrier, the earlier or the new one (R406; log 6). -/
def State.fetchByte (s : State) (pa : Nat) : Byte :=
  match s.hz.staleText.lookup pa with
  | none => readByte s.mem pa
  | some old => if (s.free .textView).getLsbD (pa % 32) then old else readByte s.mem pa

/-- n bytes that a fetch sees. -/
def State.fetchBytes (s : State) (pa : Nat) : Nat → List Byte
  | 0 => []
  | n + 1 => s.fetchByte pa :: s.fetchBytes (pa + 1) n

/-- `Fetch` of n bytes at an address that must be a multiple of n. -/
def State.fetch (s : State) (va : Word) (n : Nat) : Except Stop Word :=
  if aligned va n then
    (s.place .fetch va n).map fun pa => joinBytes (inByteOrder s.bigEndian (s.fetchBytes pa n))
  else .error (.raise (.addressErrorLoad va))

/-- What a word or halfword that is no instruction of the table does (R102, R330). -/
def rejected : Reject → Stop
  | .reserved => .raise .reservedInstruction
  | .notListed => .refuse .unlistedInstruction
  | .mustBeZero => .refuse .mustBeZeroField
  | .mips16eUnlisted => .refuse .mips16eUnlisted
  | .mips16eExtended => .refuse .mips16eExtended

/-- The same for a MIPS32 word: the access check of a coprocessor 0 word comes before the check of its
sub-opcode (R300, R355 rank 15). -/
def State.rejectedWord (s : State) (w : Word) (r : Reject) : Stop :=
  if field w 26 6 = 0x10 && !s.cop0Usable then .raise (.coprocessorUnusable 0) else rejected r

/-- Fetch and decode in MIPS32 mode. -/
def State.fetch32 (s : State) : Except Stop Instr :=
  match s.fetch s.flow.pc 4 with
  | .error x => .error x
  | .ok w =>
    match decode32 w with
    | .error r => .error (s.rejectedWord w r)
    | .ok i => .ok i

/-- The halfword after the one at pc, which is fetched only when that one starts a 32-bit instruction. -/
def State.secondHalf (s : State) (h : Half) : Except Stop Half :=
  if isLong16 h then (s.fetch (s.flow.pc + 2) 2).map (·.setWidth 16) else .ok 0

/-- Fetch and decode in MIPS16e mode (log 3). -/
def State.fetch16 (s : State) : Except Stop Instr :=
  match s.fetch s.flow.pc 2 with
  | .error x => .error x
  | .ok w =>
    match s.secondHalf (w.setWidth 16) with
    | .error x => .error x
    | .ok second =>
      match decode16 (w.setWidth 16) second with
      | .error r => .error (rejected r)
      | .ok i => .ok i

/-- The instruction at pc. -/
def State.fetchDecode (s : State) : Except Stop Instr := if s.flow.isaMode then s.fetch16 else s.fetch32

/-- The instruction at pc, executed; or what its fetch or its encoding raises. -/
def runInstruction (s : State) : Out := attempt s.fetchDecode s fun i => exec i s

/-- One step after its input has been read. -/
def stepOn (i : StepInput) (s : State) : Out :=
  if s.waiting && !s.wakes i then .next s
  else (s.eventTaken i).getD (runInstruction s.begin)

/-! ## A word placed where the next step fetches -/

/-- The bits of an instruction as bytes of memory at rising addresses: four bytes, the bits above the
instruction's 0. -/
def wordBytes (w : Nat) : List Byte := lowBytesFirst 4 w

/-- The next step's input: quiet, and no interrupt is accepted. -/
def State.undisturbed (s : State) : StepInput := { s.quietInput with accept := false }

end Sys2Proof.Machine
end

