-- ==== Sys2Proof/Machine/Step.lean ====
section
/-! DEFINITION. One step of the machine, and the placing of an instruction where the next step fetches. -/

namespace Sys2Proof.Machine

/-- One step (10_state.md R26, 45_trap_system.md R285): the input is read; then the processor stays in its wait,
takes an event, or executes the instruction at pc. -/
def step (s : State) : Host.Outcome State Fault Refusal := stepOn s.nextInput s.observe

/-- The state with the bits `w` of an instruction of `nbits` bits at pc, in the ISA mode of that length, so that
the next step runs it: no wait, no event, no unbarriered change of what a fetch sees (log 31). -/
def State.withFetchWord (s : State) (nbits w : Nat) : State :=
  let isa := decide (nbits = 16)
  { s with
    mem := writeBytes s.mem (fixedMapping (statusERL s.cp0.status) s.flow.pc).toNat (wordBytes w)
    flow := { s.flow with
      isaMode := isa
      npcIsa := if s.flow.inDs then s.flow.npcIsa else isa
      npc := if s.flow.inDs then s.flow.npc else s.flow.pc + instrStep isa }
    waiting := false
    stepped := false
    hz := { s.hz with ihazard := none, staleText := [] }
    inputs := s.undisturbed :: s.inputs }

end Sys2Proof.Machine
end

