-- ==== Sys2Proof/Machine/Rulings.lean ====
section
/-! DEFINITION. The decisions of 92_eei_decisions.md that end a run where `step` goes on, as a stricter reading of
the same machine: `ruledStep` answers the decision's name there and what `step` answers everywhere else (log 41).
Decision D32, HI and LO without a value, is `Fault.noValue` of `step` itself. -/

namespace Sys2Proof.Machine

/-- Why the spec's decisions give a step no successor, whether or not the machine of `step` has one. -/
inductive Ruling where
  /-- An instruction at ISAMode = 1 has no step (D11; 00_scope.md R4, R5, R9, 10_state.md R26). -/
  | mips16eMode
  /-- A coprocessor 0 register outside the inventory is accessed (D12, U10; 10_state.md R47, R302, R303). -/
  | absentRegister
  /-- The final outcome "entered debug mode" (D17; 60_exceptions.md R368). -/
  | enteredDebugMode
  /-- A coprocessor 0 hazard is not cleared (D19; 70_reset_and_hazards.md R408). -/
  | hazardNotCleared
  deriving DecidableEq, Repr

/-! ## Registers that are not there -/

/-- The instruction names a coprocessor 0 register outside the inventory (R47). -/
def namesAbsentRegister : Instr → Bool
  | .mfc0 _ rd sel | .mtc0 _ rd sel => (CpRegOf rd sel).isNone
  | _ => false

/-! ## Coprocessor 0 hazards (R408) -/

/-- `hazard` holds an entry for the register. -/
def State.inHazard (s : State) (r : CpReg) : Bool := (s.hz.hazard.lookup r).isSome

/-- The earlier and the present value of a register answer a question differently. -/
def State.differs (s : State) (r : CpReg) (f : Word → Bool) : Bool := f (s.earlierReg r) != f (s.cpReg r)

/-- The instruction makes the coprocessor 0 access check (R300). -/
def checksAccess : Instr → Bool
  | .cop0 _ | .mfc0 _ _ _ | .mtc0 _ _ _ | .di _ | .ei _ | .eret | .deret | .wait _ | .rdpgpr _ _
  | .wrpgpr _ _ => true
  | _ => false

/-- The old and the new Status give the access check different answers. -/
def State.accessUnsettled (s : State) : Bool :=
  !s.inDebug && s.differs .status fun st => kernelMode st || statusCU0 st

/-- ERET reads a register in `hazard`. -/
def State.eretUnsettled (s : State) : Bool :=
  s.inHazard .status || s.inHazard (if statusERL s.cp0.status then .errorEpc else .epc)

/-- DERET reads a register in `hazard`. Outside Debug Mode, where R307 raises Reserved Instruction before DEPC is read,
R408's list does not say whether DERET still consumes Status and DEPC: that it does is the model's choice (DESIGN
CHOICE, log 41). -/
def State.deretUnsettled (s : State) : Bool := s.inHazard .status || s.inHazard .depc

/-- RDHWR of a register that exists: HWREna, which decides where the mode under the old or the new Status does not
allow it, is in `hazard`; the old and the new Status give different answers and HWREna does not allow it; or the
register that it delivers is in `hazard` (R308). -/
def State.rdhwrUnsettled (s : State) (rd : BitVec 5) : Bool :=
  s.hwrExists rd &&
    ((s.accessUnsettled || !s.cop0Usable) && s.inHazard .hwrena ||
      s.accessUnsettled && !bit s.cp0.hwrena rd.toNat ||
      (rd = 0 && s.inHazard .ebase || rd = 2 && s.inHazard .count) && s.hwrAllowed rd)

/-- The instruction is an explicit consumer of a register in `hazard`. DI and EI with rt not 0 read Status, as MFC0
does (46_cop0_privileged.md R304, R305). -/
def consumesHazard (i : Instr) (s : State) : Bool :=
  match i with
  | .eret => s.cop0Usable && s.eretUnsettled
  | .deret => s.cop0Usable && s.deretUnsettled
  | .cop0 cofun => s.cop0Usable && (cofun = 0x18 && s.eretUnsettled || cofun = 0x1F && s.deretUnsettled)
  | .rdpgpr _ _ | .wrpgpr _ _ => s.cop0Usable && s.inHazard .srsCtl
  | .mfc0 _ rd sel => s.cop0Usable && (CpRegOf rd sel).any s.inHazard
  | .di rt | .ei rt => s.cop0Usable && rt != 0 && s.inHazard .status
  | .rdhwr _ rd => s.rdhwrUnsettled rd
  | _ => false

/-- An old Status and the new one translate an address differently, or permit it differently. -/
def State.translationDiffers (s : State) (va old : Word) : Bool :=
  s.translateUnder va old != s.translateUnder va s.cp0.status

/-- The fetch at pc is not settled by the instruction hazard on Status. A misaligned pc is an Address Error before any
translation (10_state.md R26). -/
def State.fetchUnsettled (s : State) : Bool :=
  aligned s.flow.pc 4 && s.hz.ihazard.any (s.translationDiffers s.flow.pc)

/-- The address that a MIPS32 load or store has translated; a misaligned one is an Address Error before (44_load_store.md
R240). SC's is checked whatever LLbit is (R254). -/
def translatedAddress (i : Instr) (s : State) : Option Word :=
  let within (n : Nat) (ea : Word) := if aligned ea n then some ea else none
  match i with
  | .lb _ offset base | .lbu _ offset base | .sb _ offset base | .lwl _ offset base | .lwr _ offset base
  | .swl _ offset base | .swr _ offset base => some (s.effectiveAddress base offset)
  | .lh _ offset base | .lhu _ offset base | .sh _ offset base => within 2 (s.effectiveAddress base offset)
  | .lw _ offset base | .sw _ offset base | .ll _ offset base | .sc _ offset base =>
    within 4 (s.effectiveAddress base offset)
  | _ => none

/-- The old and the new Status translate or permit the address of a load or store differently (95_test_vectors.md V51,
last row). -/
def accessesUnsettled (i : Instr) (s : State) : Bool :=
  (translatedAddress i s).any fun va => (s.hz.hazard.lookup .status).any (s.translationDiffers va)

/-- The vector or the register set of an exception entry is not determined. -/
def State.vectorUnsettled (s : State) : Bool :=
  s.inHazard .ebase || s.inHazard .intCtl || s.inHazard .srsCtl || s.inHazard .srsMap ||
    s.differs .status statusBEV

/-- The operation enters an ordinary exception, from outside Debug Mode: nothing else that an instruction does ends a
wait, but entry to Debug Mode, whose vector no register determines (60_exceptions.md R367). -/
def raisesException (run : State → Out) (s : State) : Bool :=
  match run { s with waiting := true } with
  | .next t => !t.waiting && !t.inDebug
  | .fault _ | .refused _ => false

/-! ## The step under the decisions -/

/-- The decision that an instruction with its operands breaks. -/
def instructionRuling (i : Instr) (s : State) : Option Ruling :=
  if checksAccess i && s.accessUnsettled || consumesHazard i s || accessesUnsettled i s then some .hazardNotCleared
  else if namesAbsentRegister i && s.cop0Usable then some .absentRegister
  else none

/-- What stands at pc is a word of opcode COP0 without a row, whose access check is not settled. -/
def State.rejectedUnsettled (s : State) : Bool :=
  match s.fetch s.flow.pc 4 with
  | .ok w => field w 26 6 = 0x10 && s.accessUnsettled
  | .error _ => false

/-- The decision that the instruction at pc breaks: at its fetch, by itself, or in the exception it raises. -/
def State.runRuling (s : State) : Option Ruling :=
  if s.flow.isaMode then some .mips16eMode
  else if s.fetchUnsettled || raisesException runInstruction s && s.vectorUnsettled then some .hazardNotCleared
  else
    match s.fetchDecode with
    | .ok i => instructionRuling i s
    | .error _ => if s.rejectedUnsettled then some .hazardNotCleared else none

/-- The outcome is a state in Debug Mode. -/
def leadsToDebug : Out → Bool
  | .next t => t.inDebug
  | .fault _ | .refused _ => false

/-- The decision that a step from a state outside Debug Mode breaks before it comes to its outcome. An event that is
taken without a request of its own (`event = none`) and without a single step is an interrupt. -/
def State.earlyRuling (s : State) : Option Ruling :=
  let i := s.nextInput
  let u := s.observe
  if u.waiting && !u.wakes i then none
  else if (u.eventTaken i).isSome then
    if i.event.isNone && !u.singleStepDue && u.vectorUnsettled then some .hazardNotCleared else none
  else u.begin.runRuling

/-- The decision that a step from s breaks, whatever `step` answers. Entry to Debug Mode is the outcome of a step that
breaks none before it: an SDBBP whose fetch is not settled is a hazard. -/
def State.stepRuling (s : State) : Option Ruling :=
  if s.inDebug then some .enteredDebugMode
  else
    match s.earlyRuling with
    | some r => some r
    | none => if leadsToDebug (step s) then some .enteredDebugMode else none

/-- One step under the spec's decisions: one that breaks a decision is answered by the decision's name, before any
stop of `step`. -/
def ruledStep (s : State) : Except Ruling Out :=
  match s.stepRuling with
  | some r => .error r
  | none => .ok (step s)

/-! ## Stores to text (D8; 20_memory.md R74) -/

/-- The n bytes of a place that is granted. -/
def granted (x : Except Stop Nat) (n : Nat) : List Nat :=
  match x with
  | .ok pa => (List.range n).map (pa + ·)
  | .error _ => []

/-- The bytes that a store of n bytes writes. -/
def State.storedAt (s : State) (ea : Word) (n : Nat) : List Nat :=
  if aligned ea n then granted (s.place .store ea n) n else []

/-- The bytes that m stores of SAVE below `a` write, up to the one that stops. -/
def State.pushedBelow (s : State) (a : Word) : Nat → List Nat
  | 0 => []
  | m + 1 =>
    match s.storedAt (a - 4) 4 with
    | [] => []
    | l => l ++ s.pushedBelow (a - 4) m

/-- The bytes that an instruction writes. -/
def bytesStored (i : Instr) (s : State) : List Nat :=
  match i with
  | .sb _ offset base => s.storedAt (s.effectiveAddress base offset) 1
  | .sh _ offset base => s.storedAt (s.effectiveAddress base offset) 2
  | .sw _ offset base => s.storedAt (s.effectiveAddress base offset) 4
  | .swl _ offset base =>
    let ea := s.effectiveAddress base offset
    let n := leftCount s.bigEndian ea
    granted (s.placeUnaligned .store ea (leftStart s.bigEndian ea) n) n
  | .swr _ offset base =>
    let ea := s.effectiveAddress base offset
    let n := rightCount s.bigEndian ea
    granted (s.placeUnaligned .store ea (rightStart s.bigEndian ea) n) n
  | .sc _ offset base =>
    let ea := s.effectiveAddress base offset
    if s.llBit && ea == s.llAddr then s.storedAt ea 4 else []
  | .save ra s0 s1 _ => s.pushedBelow (s.reg 29) (ra.toNat + s0.toNat + s1.toNat)
  | _ => []

/-- The state in which a step executes the instruction at pc, if it does. -/
def State.executing (s : State) : Option State :=
  let i := s.nextInput
  let u := s.observe
  if u.waiting && !u.wakes i || (u.eventTaken i).isSome then none else some u.begin

/-- The bytes of text that a step fetches, in MIPS32 mode. -/
def State.fetchedNow (s : State) : List Nat :=
  match s.executing with
  | some u => granted (u.place .fetch u.flow.pc 4) 4
  | none => []

/-- The bytes that a step stores to. -/
def State.storedNow (s : State) : List Nat :=
  match s.executing with
  | some u =>
    match u.fetchDecode with
    | .ok i => bytesStored i u
    | .error _ => []
  | none => []

/-- What the states of a run of n steps list, one after the other. -/
def gather (f : State → List Nat) : Nat → State → List Nat
  | 0, _ => []
  | n + 1, s =>
    f s ++
      match step s with
      | .next t => gather f n t
      | .fault _ | .refused _ => []

/-- A run of n steps stores to no byte that it fetches, before or after (D8). -/
def keepsText (n : Nat) (s : State) : Bool :=
  (gather State.fetchedNow n s).all fun a => !(gather State.storedNow n s).contains a

end Sys2Proof.Machine
end

