-- ==== Sys2Proof/Safety.lean ====
section
/-! DEFINITION. The terms the claims use: what an outcome changes and what it leaves, the invariants of the state,
and a safe run. -/

namespace Sys2Proof.Machine

/-! ## What two states have in common -/

/-- Every general register of every set is as before. -/
def SameRegisters (s t : State) : Prop := ∀ set r, t.sreg set r = s.sreg set r

/-- Every general register of every set is as before, but register rd of the current set. -/
def OnlyRegister (s t : State) (rd : Reg) : Prop :=
  ∀ set r, ¬(set = s.css ∧ r = rd) → t.sreg set r = s.sreg set r

/-- Every byte of memory reads as before. -/
def SameMemory (s t : State) : Prop := ∀ a, readByte t.mem a = readByte s.mem a

/-- Every byte of memory outside the n bytes at pa reads as before. -/
def SameMemoryOutside (s t : State) (pa n : Nat) : Prop :=
  ∀ a, a < pa ∨ pa + n ≤ a → readByte t.mem a = readByte s.mem a

def SameHiLo (s t : State) : Prop := t.hi = s.hi ∧ t.lo = s.lo ∧ t.hiloUnread = s.hiloUnread
def SameLink (s t : State) : Prop := t.llBit = s.llBit ∧ t.llAddr = s.llAddr

/-- What surrounds the core, and the model's own fields, are as before. -/
def SamePlatform (s t : State) : Prop :=
  t.platform = s.platform ∧ t.port = s.port ∧ t.inputs = s.inputs ∧ t.draws = s.draws ∧ t.stepped = s.stepped

/-- Every coprocessor 0 register is as before, and no wait begins or ends. -/
def SameSystem (s t : State) : Prop := t.cp0 = s.cp0 ∧ t.waiting = s.waiting ∧ SamePlatform s t

/-- The rest of the state: HI and LO, the reservation, the system registers, memory. -/
def SameRest (s t : State) : Prop := SameHiLo s t ∧ SameLink s t ∧ SameSystem s t ∧ SameMemory s t

/-- Control goes on to npc (`Next` of 10_state.md R26). -/
def InSequence (s t : State) : Prop :=
  t.flow.pc = s.flow.npc ∧ t.flow.npc = s.flow.npc + instrStep s.flow.npcIsa ∧ t.flow.inDs = false ∧
    t.flow.isaMode = s.flow.npcIsa ∧ t.flow.npcIsa = s.flow.npcIsa

/-- The record of unbarriered writes is as before, or emptied at the end of the delay slot of JR.HB or JALR.HB. -/
def SameHazards (s t : State) : Prop :=
  t.hz = if s.flow.inDs && s.hz.hbPending then Hazards.none else s.hz

/-! ## Outcomes -/

/-- The outcome is a next state in which register rd of the current set holds v (register 0: 0), control goes on
in sequence, and nothing else has changed. -/
def Writes (o : Out) (s : State) (rd : Reg) (v : Word) : Prop :=
  ∃ t, o = .next t ∧ t.reg rd = (if rd = 0 then 0 else v) ∧ OnlyRegister s t rd ∧ SameRest s t ∧
    InSequence s t ∧ SameHazards s t

/-- The outcome is a next state in which control goes on in sequence and nothing else has changed. -/
def Passes (o : Out) (s : State) : Prop :=
  ∃ t, o = .next t ∧ SameRegisters s t ∧ SameRest s t ∧ InSequence s t ∧ SameHazards s t

/-- The outcome is a next state in which the flow of control is f and nothing else has changed. -/
def Moves (o : Out) (s : State) (f : Flow) : Prop :=
  ∃ t, o = .next t ∧ t.flow = f ∧ SameRegisters s t ∧ SameRest s t ∧ t.hz = s.hz

/-- The outcome is a next state in which the flow of control is f, register rd of the current set holds the link
v (register 0: 0), and nothing else has changed. -/
def Links (o : Out) (s : State) (rd : Reg) (v : Word) (f : Flow) : Prop :=
  ∃ t, o = .next t ∧ t.flow = f ∧ t.reg rd = (if rd = 0 then 0 else v) ∧ OnlyRegister s t rd ∧ SameRest s t ∧
    t.hz = s.hz

/-- The outcome is a next state in which HI and LO hold the given values as an unread arithmetic result, control
goes on in sequence, and nothing else has changed. -/
def WritesHiLo (o : Out) (s : State) (hi lo : Word) : Prop :=
  ∃ t, o = .next t ∧ t.hi = some hi ∧ t.lo = some lo ∧ t.hiloUnread = true ∧ SameRegisters s t ∧ SameLink s t ∧
    SameSystem s t ∧ SameMemory s t ∧ InSequence s t ∧ SameHazards s t

/-- The outcome is a next state in which the bytes bs stand at physical address pa, control goes on in sequence,
and nothing else has changed but the record of stores that the fetch may not see yet; at the end of the delay slot
of JR.HB or JALR.HB the whole record of unbarriered writes is emptied (log 6). -/
def Stores (o : Out) (s : State) (pa : Nat) (bs : List Byte) : Prop :=
  ∃ t, o = .next t ∧ readBytes t.mem pa bs.length = bs ∧ SameMemoryOutside s t pa bs.length ∧ SameRegisters s t ∧
    SameHiLo s t ∧ SameLink s t ∧ SameSystem s t ∧ InSequence s t ∧
    if s.flow.inDs && s.hz.hbPending then t.hz = Hazards.none
    else { t.hz with staleText := s.hz.staleText } = s.hz

/-- The delay slot follows, and then `target` in MIPS32 mode or, for a register jump, in the mode given. -/
def slotThen (s : State) (target : Word) (isa : Bool) : Flow := ⟨s.flow.npc, target, isa, true, s.flow.npcIsa⟩

/-! ## Values in memory -/

/-- The halfword at a physical address, in the configured byte order. -/
def State.halfAt (s : State) (pa : Nat) : Half :=
  if s.bigEndian then readByte s.mem pa ++ readByte s.mem (pa + 1)
  else readByte s.mem (pa + 1) ++ readByte s.mem pa

/-- The word at a physical address, in the configured byte order. -/
def State.wordAt (s : State) (pa : Nat) : Word :=
  if s.bigEndian then
    readByte s.mem pa ++ readByte s.mem (pa + 1) ++ readByte s.mem (pa + 2) ++ readByte s.mem (pa + 3)
  else readByte s.mem (pa + 3) ++ readByte s.mem (pa + 2) ++ readByte s.mem (pa + 1) ++ readByte s.mem pa

/-- The value fits in a signed 32-bit word. -/
def FitsWord (n : Int) : Prop := -2147483648 ≤ n ∧ n ≤ 2147483647

/-! ## Exceptions -/

/-- No coprocessor 0 write waits for a barrier. -/
def State.settled (s : State) : Prop := s.hz.hazard = [] ∧ s.hz.ihazard = none

/-- An ordinary exception can be taken: nothing waits for a barrier, the processor is outside Debug Mode, and
SRSCtl.ESS names a set that exists. -/
def State.ready (s : State) : Prop := s.settled ∧ s.inDebug = false ∧ s.ess ≤ s.hss

/-- The general exception vector (60_exceptions.md R358). -/
def State.generalVector (s : State) : Word :=
  if statusBEV s.cp0.status then 0xBFC00380 else (s.cp0.ebase &&& 0xFFFFF000) ||| 0x180

/-- t is s after entry to an ordinary exception (60_exceptions.md R356), the register set apart: the code, the
saved address and BD, the level bit, the vector; everything else as before. -/
def Entered (s t : State) (code : BitVec 5) (badVAddr vector : Word) : Prop :=
  field t.cp0.cause 2 5 = code ∧ (∀ i, i < 2 ∨ 7 ≤ i → i ≠ 31 → bit t.cp0.cause i = bit s.cp0.cause i) ∧
    (statusEXL s.cp0.status = true → t.cp0.epc = s.cp0.epc ∧ bit t.cp0.cause 31 = bit s.cp0.cause 31) ∧
    (statusEXL s.cp0.status = false →
      t.cp0.epc = withIsaBit (if s.flow.inDs then s.flow.pc - 4 else s.flow.pc) s.flow.isaMode ∧
        bit t.cp0.cause 31 = s.flow.inDs) ∧
    statusEXL t.cp0.status = true ∧ (∀ i, i ≠ 1 → bit t.cp0.status i = bit s.cp0.status i) ∧
    t.cp0.badVAddr = badVAddr ∧
    { t.cp0 with
      cause := s.cp0.cause, causeCE := s.cp0.causeCE, epc := s.cp0.epc, status := s.cp0.status
      badVAddr := s.cp0.badVAddr, srsCtl := s.cp0.srsCtl } = s.cp0 ∧
    t.flow = ⟨vector, vector + 4, false, false, false⟩ ∧ t.hz = Hazards.none ∧ t.waiting = false ∧
    SameRegisters s t ∧ SameHiLo s t ∧ SameLink s t ∧ SamePlatform s t ∧ SameMemory s t

/-- The register set after an entry that selects `set`: the switch of R356, or SRSCtl as before. -/
def SwitchedTo (s t : State) (set : BitVec 4) : Prop :=
  if statusEXL s.cp0.status = false ∧ s.hss ≠ 0 ∧ statusBEV s.cp0.status = false ∧ statusERL s.cp0.status = false
  then t.css = set ∧ t.pss = s.css ∧
    setField (setField t.cp0.srsCtl 0 s.css) 6 s.pss = s.cp0.srsCtl
  else t.cp0.srsCtl = s.cp0.srsCtl

/-- The outcome is entry to the general exception vector with a code, BadVAddr as given. -/
def Enters (o : Out) (s : State) (code : BitVec 5) (badVAddr : Word) : Prop :=
  ∃ t, o = .next t ∧ Entered s t code badVAddr s.generalVector ∧ SwitchedTo s t s.ess

/-! ## Invariants -/

/-- Memory is in its canonical form. -/
def State.canonical (s : State) : Prop := s.mem.wf = true

/-- The flow of control is legal (10_state.md R26, R27; 43_branch_jump.md R200): addresses are even; outside a
delay slot npc is the next instruction; a delay slot is MIPS32 code at a word-aligned address; a wait does not
begin in one; the barrier of JR.HB waits only in one. -/
def State.flowLegal (s : State) : Prop :=
  bit s.flow.pc 0 = false ∧ bit s.flow.npc 0 = false ∧
    (s.flow.inDs = false →
      s.flow.npcIsa = s.flow.isaMode ∧ s.flow.npc = s.flow.pc + instrStep s.flow.isaMode) ∧
    (s.flow.inDs = true → s.flow.isaMode = false ∧ bit s.flow.pc 1 = false) ∧
    (s.waiting = true → s.flow.inDs = false) ∧ (s.hz.hbPending = true → s.flow.inDs = true)

/-- Every register set that can become current exists, and register 0 of every set holds 0 (10_state.md R21,
R23). -/
def State.setsLegal (s : State) : Prop :=
  s.css ≤ s.hss ∧ s.pss ≤ s.hss ∧ s.ess ≤ s.hss ∧ setsWithin s.hss s.cp0.srsMap = true ∧
    (∀ old, s.hz.hazard.lookup CpReg.srsCtl = some old → field old 6 4 ≤ s.hss) ∧
    ∀ set : Fin 16, (s.regs[set])[0] = 0

/-- The bits of the coprocessor 0 registers that read as a constant do so (10_state.md R31, R32, R37, R39, R43,
R44), for a StatusWriteMask within the one R31 suggests. -/
def State.reservedLegal (s : State) : Prop :=
  s.platform.statusWriteMask &&& 0xE78700E8 = 0 ∧ s.cp0.status &&& 0xE78700E8 = 0 ∧
    s.cp0.cause &&& 0x373FFC83 = 0 ∧ s.cp0.srsCtl &&& 0xC3C30C30 = 0 ∧ s.cp0.intCtl &&& 0x03FFFC1F = 0 ∧
    legalSpacing (field s.cp0.intCtl 5 5) = true ∧ s.cp0.ebase &&& 0xC0000C00 = 0x80000000 ∧
    s.cp0.hwrena &&& ~~~(zext s.platform.hwrenaImplMask) = 0

/-! ## Which instructions store -/

/-- The instructions that can write memory. -/
def storing : Instr → Bool
  | .sb _ _ _ => true
  | .sh _ _ _ => true
  | .sw _ _ _ => true
  | .swl _ _ _ => true
  | .swr _ _ _ => true
  | .sc _ _ _ => true
  | .save _ _ _ _ => true
  | _ => false

/-- The branches, jumps and the other instructions that must not stand in a delay slot (43_branch_jump.md R200,
47_mips16e_only.md R333). -/
def transfersControl : Instr → Bool
  | .b _ | .bal _ | .beq _ _ _ | .bne _ _ _ | .bgez _ _ | .bgtz _ _ | .blez _ _ | .bltz _ _ | .bgezal _ _
  | .bltzal _ _ | .beql _ _ _ | .bnel _ _ _ | .bgezl _ _ | .bgtzl _ _ | .blezl _ _ | .bltzl _ _ | .bgezall _ _
  | .bltzall _ _ | .j _ | .jal _ | .jr _ | .jrHb _ | .jalr _ _ | .jalrHb _ _ | .eret | .deret | .wait _ | .jalrc _
  | .jrc _ => true
  | _ => false

/-- The registers that SAVE and RESTORE move, from the top of the frame down (47_mips16e_only.md R335). -/
def frameRegisters (ra s0 s1 : Bool) : List Reg :=
  (if ra then [31] else []) ++ (if s1 then [17] else []) ++ (if s0 then [16] else [])

/-! ## Safe runs -/

/-- A step that does not stop. -/
def SafeStep (s : State) : Prop := ∃ t, step s = .next t

/-- A run of n steps that does not stop. -/
def SafeRun : Nat → State → Prop
  | 0, _ => True
  | n + 1, s => ∃ t, step s = .next t ∧ SafeRun n t

/-- A run of n steps that does not stop and breaks no decision of 92_eei_decisions.md, stores to text apart: what
the spec's own model calls a run (log 41). -/
def RuledRun : Nat → State → Prop
  | 0, _ => True
  | n + 1, s => ∃ t, ruledStep s = .ok (.next t) ∧ RuledRun n t

/-- The same with decision D8: no byte of the text that the run fetches is stored to (log 41). -/
def RuledRunKeepingText (n : Nat) (s : State) : Prop := RuledRun n s ∧ keepsText n s = true

/-- A run that reaches, without stopping and in at most n steps, a state that a claim counts as its end: the open
parameter `EndOfRun` (00_scope.md R5, D31) is the claim's own predicate (log 36). -/
def EndsWithin (ends : State → Bool) : Nat → State → Prop
  | 0, s => ends s = true
  | n + 1, s => ends s = true ∨ ∃ t, step s = .next t ∧ EndsWithin ends n t

end Sys2Proof.Machine
end

