-- ==== Sys2Proof/Certificates/Slice0/Obligations.lean ====
section
/-! DEFINITION. The statements for the provers. -/

open Sys2Proof Sys2Proof.Machine

/-! ## Encoding -/

/-- Decoding the encoding of a well-formed instruction gives it back, with every operand at every value
(30_encoding.md R94 to R100, 47_mips16e_only.md; log 22 for the bit patterns). -/
def Obligations.DecodeEncode : Prop := ∀ i : Instr, i.wellFormed = true → decode (encode i) = .ok i

/-- Each word, each halfword and each EXTEND pair has one meaning: what decodes is well formed and its encoding is
that word, halfword or pair (30_encoding.md R94 to R100, 47_mips16e_only.md R330 to R338; log 22 for the bit patterns,
log 24 for the pairs). -/
def Obligations.EncodeDecode : Prop :=
  (∀ w i, decode32 w = .ok i → i.wellFormed = true ∧ encode i = .word w) ∧
    (∀ h i, decodeShort (HalfFields.ofHalf h) = .ok i → i.wellFormed = true ∧ encode i = .half h) ∧
    (∀ first second i, first.extractLsb' 11 5 = 0x1E → decode16 first second = .ok i →
      i.wellFormed = true ∧ encode i = .extended first second)

/-- Words of the spec's examples decode to the instructions they stand for. -/
def Obligations.DecodedWords : Prop :=
  decode32 0x00221820 = .ok (.add 3 1 2) ∧ decode32 0x00000000 = .ok .nop ∧
    decode32 0x70221802 = .ok (.mul 3 1 2) ∧ decode32 0x0320FC09 = .ok (.jalrHb 31 25) ∧
    decode32 0x8022FFFC = .ok (.lb 2 0xFFFC 1) ∧ decode32 0x0428FFFF = .ok (.tgei 1 0xFFFF) ∧
    decode32 0x40027801 = .ok (.mfc0 2 15 1) ∧ decodeShort (HalfFields.ofHalf 0x64F4) = .ok (.save true true true 4)

/-! ## Memory -/

/-- A load from where a store of the same width has just stored gives the low bytes of the value stored
(20_memory.md R64). -/
def Obligations.LoadAfterStore : Prop :=
  ∀ (s t : State) (va v : Word) (n : Nat), n = 1 ∨ n = 2 ∨ n = 4 → s.mem.wf = true →
    s.memWrite va n v = .ok t → t.memRead va n = .ok (v &&& lowOnes (8 * n))

/-- The fixed mapping of 20_memory.md R61: where an access outside Debug Mode goes when every place is plain
memory and nothing waits for a barrier. User mode reaches kuseg only. That Translate is this mapping is log 8. -/
def Obligations.SegmentMapping : Prop :=
  ∀ (s : State) (kind : Access) (va : Word) (n : Nat), s.settled → s.inDebug = false →
    s.platform.memMap = [⟨0, 4294967296, .memory⟩] → va.toNat % 4 + n ≤ 4 →
      let st := s.cp0.status
      (va.toNat < 0x80000000 → statusERL st = true → s.place kind va n = .ok va.toNat) ∧
        (va.toNat < 0x80000000 → statusERL st = false → s.place kind va n = .ok (va.toNat + 0x40000000)) ∧
        (0x80000000 ≤ va.toNat → va.toNat < 0xA0000000 → kernelMode st = true →
          s.place kind va n = .ok (va.toNat - 0x80000000)) ∧
        (0xA0000000 ≤ va.toNat → va.toNat < 0xC0000000 → kernelMode st = true →
          s.place kind va n = .ok (va.toNat - 0xA0000000)) ∧
        (0xC0000000 ≤ va.toNat → kernelMode st = true → s.place kind va n = .ok va.toNat) ∧
        (0x80000000 ≤ va.toNat → kernelMode st = false →
          s.place kind va n = .error (.raise (addressError kind va)))

/-! ## The step -/

/-- A step runs the decoded instruction: with no wait to hold, no event to take and no store awaiting a barrier, what
stands at the aligned pc and decodes to i makes the step that of exec i, in MIPS32 mode a word, in MIPS16e mode a
halfword or a pair of them. Nothing is added around exec but the reading of the step's input and the end of a wait
(10_state.md R26, 20_memory.md R66; logs 2, 6, 7, 21). That an instruction runs at ISAMode = 1 at all, where the spec
gives a model no step (10_state.md R26, 47_mips16e_only.md R330, D11), is the model's choice (log 3), and so is how a
pair is read (logs 24, 33). -/
def Obligations.StepRunsInstruction : Prop :=
  ∀ (s : State) (pa : Nat) (i : Instr),
    let u := s.observe
    (u.waiting = false ∨ u.wakes s.nextInput = true) → u.eventTaken s.nextInput = none → u.hz.staleText = [] →
      (u.flow.isaMode = false → u.flow.pc.toNat % 4 = 0 → u.begin.place .fetch u.flow.pc 4 = .ok pa →
          decode32 (u.wordAt pa) = .ok i → step s = exec i u.begin) ∧
        (u.flow.isaMode = true → u.flow.pc.toNat % 2 = 0 → u.begin.place .fetch u.flow.pc 2 = .ok pa →
          isLong16 (u.halfAt pa) = false → decode16 (u.halfAt pa) 0 = .ok i → step s = exec i u.begin) ∧
        (u.flow.isaMode = true → u.flow.pc.toNat % 2 = 0 → u.begin.place .fetch u.flow.pc 2 = .ok pa →
          isLong16 (u.halfAt pa) = true → ∀ pb, u.begin.place .fetch (u.flow.pc + 2) 2 = .ok pb →
            decode16 (u.halfAt pa) (u.halfAt pb) = .ok i → step s = exec i u.begin)

/-- WAIT with access to coprocessor 0, outside a delay slot, begins the wait with the pc after it, as does the
class row COP0 with WAIT's function; while the wait lasts and no wake event is present, a step changes nothing but
what the step's input presents and the count of steps (45_trap_system.md R285, R301; logs 7, 21). -/
def Obligations.WaitForInterrupt : Prop :=
  (∀ (s : State) (code : BitVec 19), s.cop0Usable = true → s.flow.inDs = false →
      Passes (exec (.wait code) s) { s with waiting := true } ∧
        Passes (exec (.cop0 (code ++ 0x20#6)) s) { s with waiting := true }) ∧
    ∀ s : State, s.waiting = true → s.observe.wakes s.nextInput = false →
      step s = .next s.observe ∧ s.observe.waiting = true ∧ SameRegisters s s.observe ∧ SameHiLo s s.observe ∧
        s.observe.flow = s.flow ∧ SameMemory s s.observe ∧
        { s.observe.cp0 with cause := s.cp0.cause, srsCtl := s.cp0.srsCtl } = s.cp0 ∧ s.observe.css = s.css ∧
        (∀ k, k ≠ 30 → bit s.observe.cp0.cause k = bit s.cp0.cause k)

/-- What a fetch raises, with no event to take: a word of a reserved opcode is a Reserved Instruction exception
(30_encoding.md R102 case 1, in COP0 with access to it); a pc that is not a multiple of 4 in MIPS32 mode is an
Address Error with that address in BadVAddr (20_memory.md R66). -/
def Obligations.FetchExceptions : Prop :=
  ∀ (s : State) (w : Word),
    let u := s.observe
    (u.waiting = false ∨ u.wakes s.nextInput = true) → u.eventTaken s.nextInput = none → u.flow.isaMode = false →
      u.ready →
        (u.begin.fetch u.flow.pc 4 = .ok w → decode32 w = .error .reserved →
          field w 26 6 ≠ 0x10 ∨ u.cop0Usable = true → Enters (step s) u.begin 10 u.cp0.badVAddr) ∧
        (u.flow.pc.toNat % 4 ≠ 0 → Enters (step s) u.begin 4 u.flow.pc)

/-! ## Arithmetic and logic -/

/-- ADD, ADDI and SUB: the exact result when it fits in 32 bits, otherwise Integer Overflow and no register written,
register 0 as destination included. ADDU, ADDIU and SUBU wrap modulo 2^32 and never trap; both immediates are
sign-extended. With the encoding of each (40_arithmetic_logic.md R120 to R125). -/
def Obligations.AddResults : Prop :=
  ∀ (s : State) (rd rs rt : Reg) (imm : Half),
    let a := (s.reg rs).toInt
    let b := (s.reg rt).toInt
    let exact (i : Instr) (r : Reg) (n : Int) :=
      (FitsWord n → Writes (exec i s) s r (BitVec.ofInt 32 n)) ∧
        (¬FitsWord n → exec i s = takeException .integerOverflow s ∧
          (s.ready → Enters (exec i s) s 12 s.cp0.badVAddr))
    exact (.add rd rs rt) rd (a + b) ∧ exact (.addi rt rs imm) rt (a + imm.toInt) ∧ exact (.sub rd rs rt) rd (a - b) ∧
      Writes (exec (.addu rd rs rt) s) s rd (BitVec.ofNat 32 ((s.reg rs).toNat + (s.reg rt).toNat)) ∧
      Writes (exec (.addiu rt rs imm) s) s rt (BitVec.ofInt 32 (a + imm.toInt)) ∧
      Writes (exec (.subu rd rs rt) s) s rd (BitVec.ofInt 32 (a - b)) ∧
      decode32 (0x00#6 ++ rs ++ rt ++ rd ++ 0#5 ++ 0x20#6) = .ok (.add rd rs rt) ∧
      decode32 (0x08#6 ++ rs ++ rt ++ imm) = .ok (.addi rt rs imm) ∧
      decode32 (0x09#6 ++ rs ++ rt ++ imm) = .ok (.addiu rt rs imm) ∧
      decode32 (0x00#6 ++ rs ++ rt ++ rd ++ 0#5 ++ 0x21#6) = .ok (.addu rd rs rt) ∧
      decode32 (0x00#6 ++ rs ++ rt ++ rd ++ 0#5 ++ 0x22#6) = .ok (.sub rd rs rt) ∧
      decode32 (0x00#6 ++ rs ++ rt ++ rd ++ 0#5 ++ 0x23#6) = .ok (.subu rd rs rt)

/-- The logical instructions work bit by bit; the immediates are zero-extended; LUI fills the upper half. With the
encoding of each (40_arithmetic_logic.md R126 to R133). -/
def Obligations.LogicResults : Prop :=
  ∀ (s : State) (rd rs rt : Reg) (imm : Half),
    let bitwise (i : Instr) (r : Reg) (f : Nat → Bool) :=
      ∃ v, (∀ k, k < 32 → bit v k = f k) ∧ Writes (exec i s) s r v
    let a := bit (s.reg rs)
    let b := bit (s.reg rt)
    let n := imm.getLsbD
    bitwise (.and rd rs rt) rd (fun k => a k && b k) ∧ bitwise (.andi rt rs imm) rt (fun k => a k && n k) ∧
      bitwise (.or rd rs rt) rd (fun k => a k || b k) ∧ bitwise (.ori rt rs imm) rt (fun k => a k || n k) ∧
      bitwise (.xor rd rs rt) rd (fun k => a k != b k) ∧ bitwise (.xori rt rs imm) rt (fun k => a k != n k) ∧
      bitwise (.nor rd rs rt) rd (fun k => !(a k || b k)) ∧
      Writes (exec (.lui rt imm) s) s rt (BitVec.ofNat 32 (65536 * imm.toNat)) ∧
      decode32 (0x00#6 ++ rs ++ rt ++ rd ++ 0#5 ++ 0x24#6) = .ok (.and rd rs rt) ∧
      decode32 (0x0C#6 ++ rs ++ rt ++ imm) = .ok (.andi rt rs imm) ∧
      decode32 (0x00#6 ++ rs ++ rt ++ rd ++ 0#5 ++ 0x25#6) = .ok (.or rd rs rt) ∧
      decode32 (0x0D#6 ++ rs ++ rt ++ imm) = .ok (.ori rt rs imm) ∧
      decode32 (0x00#6 ++ rs ++ rt ++ rd ++ 0#5 ++ 0x26#6) = .ok (.xor rd rs rt) ∧
      decode32 (0x0E#6 ++ rs ++ rt ++ imm) = .ok (.xori rt rs imm) ∧
      decode32 (0x00#6 ++ rs ++ rt ++ rd ++ 0#5 ++ 0x27#6) = .ok (.nor rd rs rt) ∧
      decode32 (0x0F#6 ++ 0#5 ++ rt ++ imm) = .ok (.lui rt imm)

/-- The set-on-less-than instructions write 1 or 0; SLTIU compares with the sign-extended immediate as unsigned. With
the encoding of each (40_arithmetic_logic.md R134 to R137). -/
def Obligations.SetLessResults : Prop :=
  ∀ (s : State) (rd rs rt : Reg) (imm : Half),
    let unsigned : Int := if imm.toInt < 0 then 4294967296 + imm.toInt else imm.toInt
    Writes (exec (.slt rd rs rt) s) s rd (if (s.reg rs).toInt < (s.reg rt).toInt then 1 else 0) ∧
      Writes (exec (.slti rt rs imm) s) s rt (if (s.reg rs).toInt < imm.toInt then 1 else 0) ∧
      Writes (exec (.sltiu rt rs imm) s) s rt (if ((s.reg rs).toNat : Int) < unsigned then 1 else 0) ∧
      Writes (exec (.sltu rd rs rt) s) s rd (if (s.reg rs).toNat < (s.reg rt).toNat then 1 else 0) ∧
      decode32 (0x00#6 ++ rs ++ rt ++ rd ++ 0#5 ++ 0x2A#6) = .ok (.slt rd rs rt) ∧
      decode32 (0x0A#6 ++ rs ++ rt ++ imm) = .ok (.slti rt rs imm) ∧
      decode32 (0x0B#6 ++ rs ++ rt ++ imm) = .ok (.sltiu rt rs imm) ∧
      decode32 (0x00#6 ++ rs ++ rt ++ rd ++ 0#5 ++ 0x2B#6) = .ok (.sltu rd rs rt)

/-- CLO and CLZ with equal rt and rd fields write the count of leading ones or zeroes, 0 to 32; with unequal fields
they stop. With the encoding of each (40_arithmetic_logic.md R138, R139). -/
def Obligations.CountLeadingResults : Prop :=
  ∀ (s : State) (rd rs rt : Reg),
    let counts (i : Instr) (b : Bool) :=
      ∃ n, n ≤ 32 ∧ (∀ k, 32 - n ≤ k → k < 32 → bit (s.reg rs) k = b) ∧ (n < 32 → bit (s.reg rs) (31 - n) = !b) ∧
        Writes (exec i s) s rd (BitVec.ofNat 32 n)
    counts (.clo rd rs rd) true ∧ counts (.clz rd rs rd) false ∧
      (rt ≠ rd → exec (.clo rd rs rt) s = .fault .countFieldsDiffer ∧
        exec (.clz rd rs rt) s = .fault .countFieldsDiffer) ∧
      decode32 (0x1C#6 ++ rs ++ rt ++ rd ++ 0#5 ++ 0x21#6) = .ok (.clo rd rs rt) ∧
      decode32 (0x1C#6 ++ rs ++ rt ++ rd ++ 0#5 ++ 0x20#6) = .ok (.clz rd rs rt)

/-- SEB and SEH sign-extend the low byte and halfword of rt; WSBH swaps the bytes within each halfword. With the
encoding of each (40_arithmetic_logic.md R140 to R142). -/
def Obligations.ExtensionResults : Prop :=
  ∀ (s : State) (rd rt : Reg),
    Writes (exec (.seb rd rt) s) s rd (BitVec.ofInt 32 ((s.reg rt).setWidth 8).toInt) ∧
      Writes (exec (.seh rd rt) s) s rd (BitVec.ofInt 32 ((s.reg rt).setWidth 16).toInt) ∧
      (∃ v, (∀ i, i < 8 → bit v i = bit (s.reg rt) (i + 8) ∧ bit v (i + 8) = bit (s.reg rt) i ∧
            bit v (i + 16) = bit (s.reg rt) (i + 24) ∧ bit v (i + 24) = bit (s.reg rt) (i + 16)) ∧
        Writes (exec (.wsbh rd rt) s) s rd v) ∧
      decode32 (0x1F#6 ++ 0#5 ++ rt ++ rd ++ 0x10#5 ++ 0x20#6) = .ok (.seb rd rt) ∧
      decode32 (0x1F#6 ++ 0#5 ++ rt ++ rd ++ 0x18#5 ++ 0x20#6) = .ok (.seh rd rt) ∧
      decode32 (0x1F#6 ++ 0#5 ++ rt ++ rd ++ 0x02#5 ++ 0x20#6) = .ok (.wsbh rd rt)

/-- EXT and INS: the bit field that lies in the word, extracted and inserted; one that leaves it stops. With the
encoding of each (40_arithmetic_logic.md R143, R144). -/
def Obligations.BitFieldResults : Prop :=
  ∀ (s : State) (rt rs : Reg) (m lsb : BitVec 5),
    (if lsb.toNat + m.toNat ≤ 31 then
        ∃ v, (∀ i, i < 32 → bit v i = (decide (i ≤ m.toNat) && bit (s.reg rs) (lsb.toNat + i))) ∧
          Writes (exec (.ext rt rs m lsb) s) s rt v
      else exec (.ext rt rs m lsb) s = .fault .bitFieldOutOfRange) ∧
      (if lsb.toNat ≤ m.toNat then
        ∃ v, (∀ i, i < 32 → bit v i =
            if lsb.toNat ≤ i ∧ i ≤ m.toNat then bit (s.reg rs) (i - lsb.toNat) else bit (s.reg rt) i) ∧
          Writes (exec (.ins rt rs m lsb) s) s rt v
      else exec (.ins rt rs m lsb) s = .fault .bitFieldOutOfRange) ∧
      decode32 (0x1F#6 ++ rs ++ rt ++ m ++ lsb ++ 0x00#6) = .ok (.ext rt rs m lsb) ∧
      decode32 (0x1F#6 ++ rs ++ rt ++ m ++ lsb ++ 0x04#6) = .ok (.ins rt rs m lsb)

/-- MOVN and MOVZ move, or pass and leave rd as it is. With the encoding of each (40_arithmetic_logic.md R145,
R146). -/
def Obligations.ConditionalMoves : Prop :=
  ∀ (s : State) (rd rs rt : Reg),
    (if s.reg rt = 0 then Passes (exec (.movn rd rs rt) s) s ∧ Writes (exec (.movz rd rs rt) s) s rd (s.reg rs)
      else Writes (exec (.movn rd rs rt) s) s rd (s.reg rs) ∧ Passes (exec (.movz rd rs rt) s) s) ∧
      decode32 (0x00#6 ++ rs ++ rt ++ rd ++ 0#5 ++ 0x0B#6) = .ok (.movn rd rs rt) ∧
      decode32 (0x00#6 ++ rs ++ rt ++ rd ++ 0#5 ++ 0x0A#6) = .ok (.movz rd rs rt)

/-! ## Shifts and no-operations -/

/-- The shifts by n: multiplication by 2^n modulo 2^32, and division by 2^n rounded down, of the unsigned or the
signed value; the rotates by n: bit i of the result is bit i + n modulo 32 of rt; the variable forms take n from the
low five bits of rs. With the encoding of each (41_shift_nop.md R160 to R167). -/
def Obligations.ShiftResults : Prop :=
  ∀ (s : State) (rd rt rs : Reg) (sa : BitVec 5),
    let v := s.reg rt
    let n := (s.reg rs).toNat % 32
    let rotates (i : Instr) (n : Nat) :=
      ∃ w, (∀ k, k < 32 → bit w k = bit v ((k + n) % 32)) ∧ Writes (exec i s) s rd w
    Writes (exec (.sll rd rt sa) s) s rd (BitVec.ofNat 32 (v.toNat * 2 ^ sa.toNat)) ∧
      Writes (exec (.sllv rd rt rs) s) s rd (BitVec.ofNat 32 (v.toNat * 2 ^ n)) ∧
      Writes (exec (.srl rd rt sa) s) s rd (BitVec.ofNat 32 (v.toNat / 2 ^ sa.toNat)) ∧
      Writes (exec (.srlv rd rt rs) s) s rd (BitVec.ofNat 32 (v.toNat / 2 ^ n)) ∧
      Writes (exec (.sra rd rt sa) s) s rd (BitVec.ofInt 32 (v.toInt / 2 ^ sa.toNat)) ∧
      Writes (exec (.srav rd rt rs) s) s rd (BitVec.ofInt 32 (v.toInt / 2 ^ n)) ∧
      rotates (.rotr rd rt sa) sa.toNat ∧ rotates (.rotrv rd rt rs) n ∧
      (¬(rd = 0 ∧ rt = 0 ∧ (sa = 0 ∨ sa = 1 ∨ sa = 3)) →
        decode32 (0x00#6 ++ 0#5 ++ rt ++ rd ++ sa ++ 0x00#6) = .ok (.sll rd rt sa)) ∧
      decode32 (0x00#6 ++ rs ++ rt ++ rd ++ 0#5 ++ 0x04#6) = .ok (.sllv rd rt rs) ∧
      decode32 (0x00#6 ++ 0#5 ++ rt ++ rd ++ sa ++ 0x02#6) = .ok (.srl rd rt sa) ∧
      decode32 (0x00#6 ++ rs ++ rt ++ rd ++ 0#5 ++ 0x06#6) = .ok (.srlv rd rt rs) ∧
      decode32 (0x00#6 ++ 0#5 ++ rt ++ rd ++ sa ++ 0x03#6) = .ok (.sra rd rt sa) ∧
      decode32 (0x00#6 ++ rs ++ rt ++ rd ++ 0#5 ++ 0x07#6) = .ok (.srav rd rt rs) ∧
      decode32 (0x00#6 ++ 1#5 ++ rt ++ rd ++ sa ++ 0x02#6) = .ok (.rotr rd rt sa) ∧
      decode32 (0x00#6 ++ rs ++ rt ++ rd ++ 1#5 ++ 0x06#6) = .ok (.rotrv rd rt rs)

/-- NOP changes no register, memory location or control register; the pc advances (41_shift_nop.md R168). -/
def Obligations.NopPasses : Prop := decode32 0x00000000 = .ok .nop ∧ ∀ s : State, Passes (exec .nop s) s

/-- SSNOP and SYNC pass, in every state; EHB, in every state, passes and empties the record of execution hazards,
not that of instruction hazards. The barrier of JR.HB and JALR.HB acts at the end of the delay slot: whatever
instruction there goes on in sequence, it leaves nothing waiting for a barrier (R26, R169, R170, R224, R255, R407;
log 35 for the stype of SYNC). That this covers a store in the slot itself, where R224 and R407 leave the delay-slot
instruction out of the barrier, is the model's choice (log 6). -/
def Obligations.BarrierInstructions : Prop :=
  (∀ (s : State) (stype : BitVec 5),
    Passes (exec .ssnop s) s ∧ Passes (exec (.sync stype) s) s ∧
      ∃ t, exec .ehb s = .next t ∧ SameRegisters s t ∧ SameRest s t ∧ InSequence s t ∧ t.hz.hazard = [] ∧
        (s.flow.inDs = false ∨ s.hz.hbPending = false → t.hz = { s.hz with hazard := [] })) ∧
    (∀ s : State, s.flow.inDs = true → s.hz.hbPending = true →
      ∃ t, exec .nop s = .next t ∧ t.hz = Hazards.none ∧ t.flow.pc = s.flow.npc) ∧
    ∀ (i : Instr) (s t : State), s.flowLegal → s.flow.inDs = true → s.hz.hbPending = true →
      exec i s = .next t → InSequence s t → t.hz = Hazards.none

/-! ## Multiply and divide -/

/-- MULT and MULTU put the exact 64-bit product in HI++LO; MUL writes the low 32 bits of the product to rd and
leaves HI and LO without a value (R180 to R182, R193). -/
def Obligations.MultiplyResults : Prop :=
  ∀ (s : State) (rd rs rt : Reg),
    (∃ hi lo, WritesHiLo (exec (.mult rs rt) s) s hi lo ∧
        (hi ++ lo).toInt = (s.reg rs).toInt * (s.reg rt).toInt) ∧
      (∃ hi lo, WritesHiLo (exec (.multu rs rt) s) s hi lo ∧
        (hi ++ lo).toNat = (s.reg rs).toNat * (s.reg rt).toNat) ∧
      ∃ t, exec (.mul rd rs rt) s = .next t ∧
        t.reg rd = (if rd = 0 then 0 else BitVec.ofInt 32 ((s.reg rs).toInt * (s.reg rt).toInt)) ∧
        OnlyRegister s t rd ∧ t.hi = none ∧ t.lo = none ∧ t.hiloUnread = false ∧ SameLink s t ∧ SameSystem s t ∧
        SameMemory s t ∧ InSequence s t ∧ SameHazards s t

/-- The multiply-accumulate instructions add to or subtract from HI++LO modulo 2^64 where both hold a value; where HI
or LO holds none they stop (R183 to R186, R193). -/
def Obligations.AccumulateResults : Prop :=
  ∀ (s : State) (rs rt : Reg),
    let a := s.reg rs
    let b := s.reg rt
    let leaves (i : Instr) (v : BitVec 64) := ∃ hi lo, WritesHiLo (exec i s) s hi lo ∧ hi ++ lo = v
    (∀ h l, s.hi = some h → s.lo = some l →
        leaves (.madd rs rt) (BitVec.ofInt 64 ((h ++ l).toInt + a.toInt * b.toInt)) ∧
          leaves (.maddu rs rt) (BitVec.ofNat 64 ((h ++ l).toNat + a.toNat * b.toNat)) ∧
          leaves (.msub rs rt) (BitVec.ofInt 64 ((h ++ l).toInt - a.toInt * b.toInt)) ∧
          leaves (.msubu rs rt) (BitVec.ofInt 64 ((h ++ l).toNat - (a.toNat * b.toNat : Nat)))) ∧
      (s.hi = none ∨ s.lo = none →
        ∀ i ∈ [Instr.madd rs rt, .maddu rs rt, .msub rs rt, .msubu rs rt], exec i s = .fault .noValue)

/-- DIV and DIVU: quotient and remainder of the exact division, the signed one truncated toward zero; by zero, and
for -2^31 by -1, they run and leave some value in HI and LO (R187, R188, R193; log 15). -/
def Obligations.DivideResults : Prop :=
  ∀ (s : State) (rs rt : Reg),
    let n := s.reg rs
    let d := s.reg rt
    (∃ hi lo, WritesHiLo (exec (.div rs rt) s) s hi lo ∧ (d ≠ 0 → ¬(n = 0x80000000 ∧ d = 0xFFFFFFFF) →
        n.toInt = lo.toInt * d.toInt + hi.toInt ∧ hi.toInt.natAbs < d.toInt.natAbs ∧
          (0 ≤ n.toInt → 0 ≤ hi.toInt) ∧ (n.toInt ≤ 0 → hi.toInt ≤ 0))) ∧
      (∃ hi lo, WritesHiLo (exec (.divu rs rt) s) s hi lo ∧ (d ≠ 0 →
        n.toNat = lo.toNat * d.toNat + hi.toNat ∧ hi.toNat < d.toNat))

/-- MFHI and MFLO deliver HI and LO and clear hilo_unread, and stop where the register holds no value; MTHI and MTLO
write one of the pair and leave the other without a value after an unread arithmetic result (R189 to R192). -/
def Obligations.HiLoMoves : Prop :=
  ∀ (s : State) (r : Reg),
    (∀ h, s.hi = some h → Writes (exec (.mfhi r) s) { s with hiloUnread := false } r h) ∧
      (s.hi = none → exec (.mfhi r) s = .fault .noValue) ∧
      (∀ l, s.lo = some l → Writes (exec (.mflo r) s) { s with hiloUnread := false } r l) ∧
      (s.lo = none → exec (.mflo r) s = .fault .noValue) ∧
      Passes (exec (.mthi r) s)
        { s with hi := some (s.reg r), lo := if s.hiloUnread then none else s.lo, hiloUnread := false } ∧
      Passes (exec (.mtlo r) s)
        { s with hi := if s.hiloUnread then none else s.hi, lo := some (s.reg r), hiloUnread := false }

/-! ## Branches and jumps -/

/-- Outside a delay slot, B, BAL and the conditional branches execute their delay slot next and then go to the target
or on; BAL, BGEZAL and BLTZAL write pc + 8 to register 31, taken or not (R200, R202 to R212). -/
def Obligations.PlainBranches : Prop :=
  ∀ (s : State) (rs rt : Reg) (offset : Half), s.flow.inDs = false →
    let target := s.flow.pc + 4 + BitVec.ofInt 32 (4 * offset.toInt)
    let v := (s.reg rs).toInt
    let after (taken : Bool) := slotThen s (if taken then target else s.flow.npc + 4) s.flow.npcIsa
    let branches (i : Instr) (taken : Bool) := Moves (exec i s) s (after taken)
    let links (i : Instr) (taken : Bool) := Links (exec i s) s 31 (s.flow.pc + 8) (after taken)
    branches (.b offset) true ∧ branches (.beq rs rt offset) (decide (s.reg rs = s.reg rt)) ∧
      branches (.bne rs rt offset) (decide (s.reg rs ≠ s.reg rt)) ∧ branches (.bgez rs offset) (decide (0 ≤ v)) ∧
      branches (.bgtz rs offset) (decide (0 < v)) ∧ branches (.blez rs offset) (decide (v ≤ 0)) ∧
      branches (.bltz rs offset) (decide (v < 0)) ∧ links (.bal offset) true ∧
      (rs ≠ 31 → links (.bgezal rs offset) (decide (0 ≤ v)) ∧ links (.bltzal rs offset) (decide (v < 0)))

/-- The eight likely branches: when the condition holds, exactly the plain form; otherwise the delay slot is not
executed and control goes on after it, the link of BGEZALL and BLTZALL written all the same (43_branch_jump.md
R201, R213 to R220). -/
def Obligations.LikelyBranches : Prop :=
  ∀ (s : State) (rs rt : Reg) (offset : Half), s.flow.inDs = false →
    let v := (s.reg rs).toInt
    let target := slotThen s (s.flow.pc + 4 + BitVec.ofInt 32 (4 * offset.toInt)) s.flow.npcIsa
    let skipped : Flow := ⟨s.flow.npc + 4, s.flow.npc + 8, s.flow.npcIsa, false, s.flow.npcIsa⟩
    let likely (i plain : Instr) (taken : Bool) :=
      Moves (exec i s) s (if taken then target else skipped) ∧ (taken = true → exec i s = exec plain s)
    let linking (i plain : Instr) (taken : Bool) :=
      Links (exec i s) s 31 (s.flow.pc + 8) (if taken then target else skipped) ∧
        (taken = true → exec i s = exec plain s)
    likely (.beql rs rt offset) (.beq rs rt offset) (decide (s.reg rs = s.reg rt)) ∧
      likely (.bnel rs rt offset) (.bne rs rt offset) (decide (s.reg rs ≠ s.reg rt)) ∧
      likely (.bgezl rs offset) (.bgez rs offset) (decide (0 ≤ v)) ∧
      likely (.bgtzl rs offset) (.bgtz rs offset) (decide (0 < v)) ∧
      likely (.blezl rs offset) (.blez rs offset) (decide (v ≤ 0)) ∧
      likely (.bltzl rs offset) (.bltz rs offset) (decide (v < 0)) ∧
      (rs ≠ 31 → linking (.bgezall rs offset) (.bgezal rs offset) (decide (0 ≤ v)) ∧
        linking (.bltzall rs offset) (.bltzal rs offset) (decide (v < 0)))

/-- The jumps outside a delay slot: the target, the link, and for the register jumps the ISA mode from bit 0 of the
register; the .HB forms leave a barrier for the end of the delay slot (R221 to R226). -/
def Obligations.Jumps : Prop :=
  ∀ (s : State) (index : BitVec 26) (rd rs : Reg), s.flow.inDs = false →
    let target := ((s.flow.pc + 4) &&& 0xF0000000) ||| BitVec.ofNat 32 (4 * index.toNat)
    let v := s.reg rs
    let there := slotThen s (v &&& 0xFFFFFFFE) (bit v 0)
    let pending := s.setHz { s.hz with hbPending := true }
    Moves (exec (.j index) s) s (slotThen s target s.flow.isaMode) ∧
      Links (exec (.jal index) s) s 31 (s.flow.pc + 8) (slotThen s target s.flow.isaMode) ∧
      Moves (exec (.jr rs) s) s there ∧ Moves (exec (.jrHb rs) s) pending there ∧
      (rs ≠ rd → Links (exec (.jalr rd rs) s) s rd (s.flow.pc + 8) there ∧
        Links (exec (.jalrHb rd rs) s) pending rd (s.flow.pc + 8) there)

/-- What the architecture calls UNPREDICTABLE stops under its own name: a linking branch on register 31 and JALR with
one register, wherever they stand; every other branch, jump, ERET, DERET, WAIT or compact jump, and the class row
COP0 with the function of ERET, DERET or WAIT, in a delay slot (R200, R202, R225, R226, R333,
70_reset_and_hazards.md R410; log 34). -/
def Obligations.UnpredictableStops : Prop :=
  (∀ (i : Instr) (s : State), transfersControl i = true → i.predictable = true → s.flow.inDs = true →
      exec i s = .fault .controlInDelaySlot) ∧
    (∀ (s : State) (cofun : BitVec 25), cofun = 0x18 ∨ cofun = 0x1F ∨ cofun.extractLsb' 0 6 = 0x20 →
      s.flow.inDs = true → exec (.cop0 cofun) s = .fault .controlInDelaySlot) ∧
    (∀ (s : State) (offset : Half),
      exec (.bgezal 31 offset) s = .fault .linkRegisterAsSource ∧
        exec (.bltzal 31 offset) s = .fault .linkRegisterAsSource ∧
        exec (.bgezall 31 offset) s = .fault .linkRegisterAsSource ∧
        exec (.bltzall 31 offset) s = .fault .linkRegisterAsSource) ∧
    (∀ (s : State) (r : Reg), exec (.jalr r r) s = .fault .jumpAndLinkSameRegister ∧
      exec (.jalrHb r r) s = .fault .jumpAndLinkSameRegister)

/-! ## Loads and stores -/

/-- The loads of a granted, aligned place (R240 to R245). -/
def Obligations.LoadResults : Prop :=
  ∀ (s : State) (rt base : Reg) (offset : Half) (pa : Nat),
    let ea := s.reg base + BitVec.ofInt 32 offset.toInt
    (s.place .load ea 1 = .ok pa →
        Writes (exec (.lb rt offset base) s) s rt (BitVec.ofInt 32 (readByte s.mem pa).toInt) ∧
          Writes (exec (.lbu rt offset base) s) s rt (BitVec.ofNat 32 (readByte s.mem pa).toNat)) ∧
      (ea.toNat % 2 = 0 → s.place .load ea 2 = .ok pa →
        Writes (exec (.lh rt offset base) s) s rt (BitVec.ofInt 32 (s.halfAt pa).toInt) ∧
          Writes (exec (.lhu rt offset base) s) s rt (BitVec.ofNat 32 (s.halfAt pa).toNat)) ∧
      (ea.toNat % 4 = 0 → s.place .load ea 4 = .ok pa →
        Writes (exec (.lw rt offset base) s) s rt (s.wordAt pa))

/-- The stores to a granted, aligned place write the low bytes of rt there, in the configured byte order, and no
other byte (R240, R248 to R250). -/
def Obligations.StoreEffects : Prop :=
  ∀ (s : State) (rt base : Reg) (offset : Half) (pa : Nat), s.mem.wf = true →
    let ea := s.reg base + BitVec.ofInt 32 offset.toInt
    let v := s.reg rt
    let b (k : Nat) : Byte := v.extractLsb' (8 * k) 8
    (s.place .store ea 1 = .ok pa → Stores (exec (.sb rt offset base) s) s pa [b 0]) ∧
      (ea.toNat % 2 = 0 → s.place .store ea 2 = .ok pa →
        Stores (exec (.sh rt offset base) s) s pa (if s.bigEndian then [b 1, b 0] else [b 0, b 1])) ∧
      (ea.toNat % 4 = 0 → s.place .store ea 4 = .ok pa →
        Stores (exec (.sw rt offset base) s) s pa
          (if s.bigEndian then [b 3, b 2, b 1, b 0] else [b 0, b 1, b 2, b 3]))

/-- Address Error, the effective address in BadVAddr and nothing loaded or stored: of a misaligned halfword or word,
SC whatever LLbit is; and in user mode of every load and store to an address with bit 31 set (20_memory.md R62,
R65). The same of LWPC and of the first access of SAVE and RESTORE (47_mips16e_only.md R332, R335, R336), which run
by the model's choice (log 3), as do the EXTEND form of LWPC, its signed unshifted displacement and the misalignment
that only this form can have (log 24). -/
def Obligations.AddressErrors : Prop :=
  (∀ (s : State) (rt base : Reg) (offset : Half),
    let ea := s.reg base + BitVec.ofInt 32 offset.toInt
    let load (i : Instr) :=
      exec i s = takeException (.addressErrorLoad ea) s ∧ (s.ready → Enters (exec i s) s 4 ea)
    let store (i : Instr) :=
      exec i s = takeException (.addressErrorStore ea) s ∧ (s.ready → Enters (exec i s) s 5 ea)
    (ea.toNat % 2 ≠ 0 → load (.lh rt offset base) ∧ load (.lhu rt offset base) ∧ store (.sh rt offset base)) ∧
      (ea.toNat % 4 ≠ 0 → load (.lw rt offset base) ∧ load (.ll rt offset base) ∧ store (.sw rt offset base) ∧
        store (.sc rt offset base)) ∧
      (s.settled → s.inDebug = false → kernelMode s.cp0.status = false → bit ea 31 = true →
        (∀ i ∈ [Instr.lb rt offset base, .lbu rt offset base, .lh rt offset base, .lhu rt offset base,
            .lw rt offset base, .lwl rt offset base, .lwr rt offset base, .ll rt offset base], load i) ∧
          ∀ i ∈ [Instr.sb rt offset base, .sh rt offset base, .sw rt offset base, .swl rt offset base,
            .swr rt offset base, .sc rt offset base], store i)) ∧
    ∀ (s : State) (rx : Reg3) (imm : PcImm) (ra s0 s1 : Bool) (n : BitVec 4),
      let wrong (a : Word) : Prop := a.toNat % 4 ≠ 0 ∨
        (s.settled ∧ s.inDebug = false ∧ kernelMode s.cp0.status = false ∧ bit a 31 = true)
      let raises (i : Instr) (e : Exc) (code : BitVec 5) (a : Word) :=
        wrong a → exec i s = takeException e s ∧ (s.ready → Enters (exec i s) s code a)
      let a : Word := (s.flow.pc &&& 0xFFFFFFFC) +
        (match imm with
         | .short i => BitVec.ofNat 32 (4 * i.toNat)
         | .extended i => BitVec.ofInt 32 i.toInt)
      let below : Word := s.reg 29 - 4
      let top : Word := s.reg 29 + BitVec.ofNat 32 (if n = 0 then 128 else 8 * n.toNat) - 4
      raises (.lwpc rx imm) (.addressErrorLoad a) 4 a ∧
        (frameRegisters ra s0 s1 ≠ [] →
          raises (.save ra s0 s1 n) (.addressErrorStore below) 5 below ∧
            raises (.restore ra s0 s1 n) (.addressErrorLoad top) 4 top)

/-- LWL and LWR: the bytes from the one named to the end of its aligned word replace the left or the right bytes of
rt, the others are kept; each table row of R246 and R247, for both byte orders. `w` is the aligned word, `b` the
place of the address in it. -/
def Obligations.UnalignedLoads : Prop :=
  ∀ (s : State) (rt base : Reg) (offset : Half) (wa : Nat),
    let ea := s.reg base + BitVec.ofInt 32 offset.toInt
    let b := ea.toNat % 4
    let k := if s.bigEndian then 3 - b else b
    let w := s.wordAt wa
    let r := s.reg rt
    (s.place .load (leftStart s.bigEndian ea) (leftCount s.bigEndian ea) = .ok (if s.bigEndian then wa + b else wa) →
        ∃ v, (∀ i, i < 32 → bit v i = if 24 - 8 * k ≤ i then bit w (i - (24 - 8 * k)) else bit r i) ∧
          Writes (exec (.lwl rt offset base) s) s rt v) ∧
      (s.place .load (rightStart s.bigEndian ea) (rightCount s.bigEndian ea) =
          .ok (if s.bigEndian then wa else wa + b) →
        ∃ v, (∀ i, i < 32 → bit v i = if i < 32 - 8 * k then bit w (i + 8 * k) else bit r i) ∧
          Writes (exec (.lwr rt offset base) s) s rt v)

/-- SWL and SWR store the left or the right bytes of rt to the bytes of the aligned word that LWL and LWR would
read, and to no other byte (R251, R252). -/
def Obligations.UnalignedStores : Prop :=
  ∀ (s : State) (rt base : Reg) (offset : Half) (pa : Nat), s.mem.wf = true →
    let ea := s.reg base + BitVec.ofInt 32 offset.toInt
    let b (k : Nat) : Byte := (s.reg rt).extractLsb' (8 * k) 8
    let left := leftCount s.bigEndian ea
    let right := rightCount s.bigEndian ea
    (s.place .store (leftStart s.bigEndian ea) left = .ok pa →
        Stores (exec (.swl rt offset base) s) s pa
          ((List.range left).map fun i => if s.bigEndian then b (3 - i) else b (4 - left + i))) ∧
      (s.place .store (rightStart s.bigEndian ea) right = .ok pa →
        Stores (exec (.swr rt offset base) s) s pa
          ((List.range right).map fun i => if s.bigEndian then b (right - 1 - i) else b i))

/-- In little-endian memory, outside a delay slot, the pair LWL rt, 3(A); LWR rt, 0(A) with rt neither the base nor
register 0 loads the word whose first byte is at any address A, where the places of its two parts follow one another
(R246, R247). The other order of the two, the big-endian pair and a delay slot are left to what UnalignedLoads says
of each instruction. -/
def Obligations.UnalignedLoadPair : Prop :=
  ∀ (s : State) (rt base : Reg) (pa : Nat), s.bigEndian = false → s.flow.inDs = false → rt ≠ base → rt ≠ 0 →
    let a := s.reg base
    s.place .load a (rightCount false a) = .ok pa →
      s.place .load (leftStart false (a + 3)) (leftCount false (a + 3)) =
          .ok (if a.toNat % 4 = 0 then pa else pa + rightCount false a) →
        ∃ t u, exec (.lwl rt 3 base) s = .next t ∧ exec (.lwr rt 0 base) t = .next u ∧
          u.reg rt = s.wordAt pa ∧ OnlyRegister s u rt ∧ SameMemory s u

/-- LL loads the word and sets the reservation. SC with the reservation held stores and delivers 1; without it,
delivers 0 and stores nothing; with it but to another address it stops (R253, R254; log 34). -/
def Obligations.LinkedAccess : Prop :=
  ∀ (s : State) (rt base : Reg) (offset : Half) (pa : Nat),
    let ea := s.reg base + BitVec.ofInt 32 offset.toInt
    let v := s.reg rt
    let b (k : Nat) : Byte := v.extractLsb' (8 * k) 8
    ea.toNat % 4 = 0 →
      (s.place .load ea 4 = .ok pa →
        Writes (exec (.ll rt offset base) s) { s with llBit := true, llAddr := ea } rt (s.wordAt pa)) ∧
      ((s.translate .store ea).isSome = true →
        (s.llBit = false → Writes (exec (.sc rt offset base) s) s rt 0) ∧
        (s.llBit = true → ea ≠ s.llAddr → exec (.sc rt offset base) s = .fault .scAddressMismatch) ∧
        (s.llBit = true → ea = s.llAddr → s.place .store ea 4 = .ok pa → s.mem.wf = true →
          ∃ t, exec (.sc rt offset base) s = .next t ∧ t.reg rt = (if rt = 0 then 0 else 1) ∧ OnlyRegister s t rt ∧
            readBytes t.mem pa 4 = (if s.bigEndian then [b 3, b 2, b 1, b 0] else [b 0, b 1, b 2, b 3]) ∧
            SameMemoryOutside s t pa 4 ∧ SameHiLo s t ∧ SameLink s t ∧ SameSystem s t ∧ InSequence s t))

/-! ## Exceptions -/

/-- Every ordinary exception but an interrupt enters the general vector as R356 and R357 say, with its code (R350),
BadVAddr for the address errors alone (R41, R351), and Cause.CE the coprocessor's number for Coprocessor
Unusable. -/
def Obligations.ExceptionEntry : Prop :=
  ∀ (s : State) (a : Word) (n : BitVec 2), s.ready →
    Enters (takeException (.addressErrorLoad a) s) s 4 a ∧ Enters (takeException (.addressErrorStore a) s) s 5 a ∧
      Enters (takeException .syscall s) s 8 s.cp0.badVAddr ∧ Enters (takeException .breakpoint s) s 9 s.cp0.badVAddr ∧
      Enters (takeException .reservedInstruction s) s 10 s.cp0.badVAddr ∧
      Enters (takeException (.coprocessorUnusable n) s) s 11 s.cp0.badVAddr ∧
      Enters (takeException .integerOverflow s) s 12 s.cp0.badVAddr ∧
      Enters (takeException .trap s) s 13 s.cp0.badVAddr ∧
      (∀ t, takeException (.coprocessorUnusable n) s = .next t → t.cp0.causeCE = n)

/-- Entry for an interrupt at EXL = 0: the vector and the register set of the three interrupt modes (R353, R356,
R358). `ca` is Cause as it shows; the controller's vector and set come from the step's input (logs 7, 35, 39). That a
core with neither VInt nor VEIC stays in compatibility mode is read from the conditions of R353 (log 35). -/
def Obligations.InterruptEntry : Prop :=
  ∀ s : State, s.ready → statusEXL s.cp0.status = false →
    let st := s.cp0.status
    let ca := s.causeWord s.cp0.cause
    let vs := field s.cp0.intCtl 5 5
    let base := if statusBEV st then (0xBFC00200 : Word) else s.cp0.ebase &&& 0xFFFFF000
    let at_ (offset : Word) : Word := base.extractLsb' 30 2 ++ (base + offset).extractLsb' 0 30
    let enters (vector : Word) (set : BitVec 4) :=
      ∃ t, takeException .interrupt s = .next t ∧ Entered s t 0 s.cp0.badVAddr vector ∧ SwitchedTo s t set
    let vint := bit s.cp0.config3 5
    let veic := bit s.cp0.config3 6
    (bit ca 23 = false → enters (at_ 0x180) s.ess) ∧
      (bit ca 23 = true → statusBEV st = true ∨ vs = 0 ∨ (vint = false ∧ veic = false) →
        enters (at_ 0x200) s.ess) ∧
      (bit ca 23 = true → statusBEV st = false → vs ≠ 0 → vint = true → veic = false →
        ∀ v, v < 8 → bit ca (8 + v) = true → bit st (8 + v) = true →
          (∀ n, v < n → n < 8 → ¬(bit ca (8 + n) = true ∧ bit st (8 + n) = true)) →
          field s.cp0.srsMap (4 * v) 4 ≤ s.hss →
            enters (at_ (0x200 + BitVec.ofNat 32 (v * (32 * vs.toNat)))) (field s.cp0.srsMap (4 * v) 4)) ∧
      (bit ca 23 = true → statusBEV st = false → vs ≠ 0 → veic = true →
        field s.cp0.srsCtl 18 4 ≤ s.hss →
          enters (at_ (0x200 + BitVec.ofNat 32 ((s.port.vector.getD s.port.lines).toNat * (32 * vs.toNat))))
            (field s.cp0.srsCtl 18 4))

/-- A due interrupt that the surroundings let through is taken before the instruction at pc, with no wait or at the end
of one, when pc is already the address after the WAIT (45_trap_system.md R285); with IE = 0, EXL = 1, ERL = 1, in Debug
Mode or with nothing pending none is. Pending is RIPL above IPL in external-controller mode,
otherwise a request whose mask bit is set (60_exceptions.md R353, R354; the step's input stands for the oracle,
log 7; what ends a wait, log 21). -/
def Obligations.InterruptTaken : Prop :=
  ∀ s : State,
    let u := s.observe
    let i := s.nextInput
    let st := u.cp0.status
    let ca := u.causeWord u.cp0.cause
    let controller : Prop := bit u.cp0.config3 6 = true ∧ bit ca 23 = true ∧ statusBEV st = false ∧
      field u.cp0.intCtl 5 5 ≠ 0
    let pending : Prop := (controller → field st 10 6 < field ca 10 6) ∧
      (¬controller → field ca 8 8 &&& field st 8 8 ≠ 0)
    u.settled → i.event = none → u.singleStepDue = false → (u.waiting = false ∨ u.wakes i = true) →
      (statusIE st = true → statusEXL st = false → statusERL st = false → u.inDebug = false → i.accept = true →
          pending → step s = takeException .interrupt u) ∧
        (statusIE st = false ∨ statusEXL st = true ∨ statusERL st = true ∨ u.inDebug = true ∨ i.accept = false ∨
            ¬pending → step s = runInstruction u.begin)

/-- Soft reset and non-maskable interrupt (60_exceptions.md R359): taken whatever IE, EXL and ERL are; BEV, TS, ERL,
SR and NMI are written, ErrorEPC receives the restart address, control goes to the reset vector, every other register
keeps its value; NMI is ignored in Debug Mode. That Debug Mode runs on and an NMI presented there is not remembered is
the model's choice (log 4), and so is that it ends a wait all the same (log 21). -/
def Obligations.ResetClassEntry : Prop :=
  ∀ s : State,
    let u := s.observe
    let i := s.nextInput
    let entered (soft : Bool) (t : State) :=
      (∀ k, k < 32 → bit t.cp0.status k =
          if k = 22 ∨ k = 2 then true else if k = 21 then false else if k = 20 then soft
          else if k = 19 then !soft else bit u.cp0.status k) ∧
        t.cp0.errorEpc = withIsaBit (if u.flow.inDs then u.flow.pc - 4 else u.flow.pc) u.flow.isaMode ∧
        t.flow = ⟨0xBFC00000, 0xBFC00004, false, false, false⟩ ∧ t.waiting = false ∧
        { t.cp0 with status := u.cp0.status, errorEpc := u.cp0.errorEpc } = u.cp0 ∧
        SameRegisters u t ∧ SameHiLo u t ∧ SameLink u t ∧ SamePlatform u t ∧ SameMemory u t
    (i.event = some .softReset → ∃ t, step s = .next t ∧ entered true t) ∧
      (i.event = some .nmi → u.singleStepDue = false → u.inDebug = false → ∃ t, step s = .next t ∧ entered false t) ∧
      (i.event = some .nmi → u.inDebug = true → u.settled → step s = runInstruction u.begin)

/-- The reset input puts a running machine into the state of 70_reset_and_hazards.md R400: memory is not changed,
what the implementation presets keeps its value (PRId, the Config words but for K0, HSS, IPTI and IPPCI, CPUNum),
ErrorEPC is the restart address (log 23). -/
def Obligations.ColdReset : Prop :=
  ∀ s : State, s.nextInput.event = some .reset →
    let u := s.observe
    ∃ t, step s = .next t ∧ t.flow = ⟨0xBFC00000, 0xBFC00004, false, false, false⟩ ∧
      t.cp0.status &&& 0x08780004 = 0x00400004 ∧ bit t.cp0.cause 27 = false ∧ bit t.cp0.cause 22 = false ∧
      field t.cp0.intCtl 5 5 = 0 ∧ t.css = 0 ∧ t.pss = 0 ∧ t.ess = 0 ∧ t.cp0.srsMap = 0 ∧
      t.cp0.ebase &&& 0xFFFFF000 = 0x80000000 ∧ t.cp0.hwrena = 0 ∧ t.cp0.debug &&& 0x50100100 = 0 ∧
      bit t.cp0.debug 25 = true ∧ t.hss = u.hss ∧ t.cp0.prid = u.cp0.prid ∧ t.cp0.config1 = u.cp0.config1 ∧
      t.cp0.config2 = u.cp0.config2 ∧ t.cp0.config3 = u.cp0.config3 ∧
      (∀ k, 3 ≤ k → bit t.cp0.config k = bit u.cp0.config k) ∧
      field t.cp0.intCtl 29 3 = field u.cp0.intCtl 29 3 ∧ field t.cp0.intCtl 26 3 = field u.cp0.intCtl 26 3 ∧
      field t.cp0.ebase 0 10 = field u.cp0.ebase 0 10 ∧
      t.cp0.errorEpc = withIsaBit (if u.flow.inDs then u.flow.pc - 4 else u.flow.pc) u.flow.isaMode ∧
      t.waiting = false ∧ t.hz = Hazards.none ∧ SameMemory u t

/-- The state after reset, where 10_state.md R51 gives a value. -/
def Obligations.ResetState : Prop :=
  let s := State.reset
  s.flow.pc = 0xBFC00000 ∧ s.flow.npc = s.flow.pc + 4 ∧ s.flow.inDs = false ∧ s.flow.isaMode = false ∧
    s.flow.npcIsa = false ∧ (∀ set, s.sreg set 0 = 0) ∧ s.waiting = false ∧ s.hz.hazard = [] ∧
    s.hz.ihazard = none ∧ s.hz.hbPending = false ∧ s.cp0.status &&& 0xEFFF00E8 = 0x00400000 ∧
    statusERL s.cp0.status = true ∧ bit s.cp0.cause 27 = false ∧ bit s.cp0.cause 22 = false ∧
    field s.cp0.intCtl 5 5 = 0 ∧ s.ess = 0 ∧ s.pss = 0 ∧ s.css = 0 ∧ s.cp0.srsMap = 0 ∧
    s.cp0.ebase &&& 0xFFFFFC00 = 0x80000000 ∧ s.cp0.hwrena = 0 ∧ bit s.cp0.debug 30 = false ∧
    bit s.cp0.debug 8 = false ∧ bit s.cp0.debug 25 = true ∧ bit s.cp0.debug 28 = false ∧
    bit s.cp0.debug 20 = false ∧ kernelMode s.cp0.status = true ∧ s.interruptDue = false

/-! ## Traps and system -/

/-- SYSCALL and BREAK raise their exceptions in every mode, whatever their code field (R270, R271). -/
def Obligations.SystemCalls : Prop :=
  ∀ (s : State) (code : BitVec 20),
    exec (.syscall code) s = takeException .syscall s ∧ exec (.break_ code) s = takeException .breakpoint s ∧
      (s.ready → Enters (exec (.syscall code) s) s 8 s.cp0.badVAddr ∧
        Enters (exec (.break_ code) s) s 9 s.cp0.badVAddr)

/-- SDBBP, a due single step and a debug interrupt enter Debug Mode from outside it with DBp, DSS or DINT set, a
due single step before a debug interrupt and both before an NMI and an interrupt, leaving Status, Cause, EPC, BadVAddr
and the general registers. An exception raised inside Debug Mode, SDBBP included, re-enters the debug vector with its
code in Debug.DExcCode; DEPC and every other register keep their values (R272, R355, R363, R367). That Debug Mode is
executed is the model's choice (logs 4, 20), and so is when a single step is due (log 19), that the debug interrupt
comes from the step's input (log 7), and that an Address Error raised inside Debug Mode leaves BadVAddr, which R41, R65
and R351 have written and R367 does not name (log 37). -/
def Obligations.DebugEntry : Prop :=
  let entered (s t : State) :=
    let vector : Word := if s.platform.probTrap then 0xFF200200 else 0xBFC00480
    t.flow = ⟨vector, vector + 4, false, false, false⟩ ∧ t.inDebug = true ∧ t.waiting = false ∧ SameRegisters s t ∧
      SameHiLo s t ∧ SameLink s t ∧ SamePlatform s t ∧ SameMemory s t ∧
      { t.cp0 with debug := s.cp0.debug, depc := s.cp0.depc } = s.cp0
  let enters (o : Out) (s : State) (cause : BitVec 6) :=
    ∃ t, o = .next t ∧ entered s t ∧
      t.cp0.depc = withIsaBit (if s.flow.inDs then s.flow.pc - 4 else s.flow.pc) s.flow.isaMode ∧
      field t.cp0.debug 0 6 = cause ∧ bit t.cp0.debug 31 = s.flow.inDs ∧ bit t.cp0.debug 20 = true
  let reenters (o : Out) (s : State) (code : BitVec 5) :=
    ∃ t, o = .next t ∧ entered s t ∧ t.cp0.depc = s.cp0.depc ∧ field t.cp0.debug 10 5 = code ∧
      ∀ k, k < 10 ∨ 15 ≤ k → bit t.cp0.debug k = bit s.cp0.debug k
  (∀ (s : State) (code : BitVec 20), s.inDebug = false → enters (exec (.sdbbp code) s) s 0x02) ∧
    (∀ s : State,
      let u := s.observe
      let i := s.nextInput
      let due : Prop := bit u.cp0.debug 8 = true ∧ u.stepped = true ∧ u.flow.inDs = false
      u.hz.hazard = [] → u.inDebug = false → i.event ≠ some .reset → i.event ≠ some .softReset →
        (due → (u.waiting = false ∨ u.wakes i = true) → enters (step s) u 0x01) ∧
          (i.event = some .debugInterrupt → ¬due → enters (step s) u 0x20)) ∧
    ∀ (s : State) (code : BitVec 20) (a : Word) (n : BitVec 2), s.inDebug = true →
      reenters (exec (.sdbbp code) s) s 9 ∧
        ∀ p ∈ [(Exc.addressErrorLoad a, (4 : BitVec 5)), (.addressErrorStore a, 5), (.syscall, 8), (.breakpoint, 9),
            (.reservedInstruction, 10), (.coprocessorUnusable n, 11), (.integerOverflow, 12), (.trap, 13),
            (.debugBreakpoint, 9)],
          reenters (takeException p.1 s) s p.2

/-- The conditional traps: Trap when the condition holds, otherwise nothing; the immediates are sign-extended, the
unsigned forms compare the extended value as unsigned (R273 to R284). -/
def Obligations.Traps : Prop :=
  ∀ (s : State) (rs rt : Reg) (code : BitVec 10) (imm : Half),
    let a := s.reg rs
    let b := s.reg rt
    let n := imm.toInt
    let un : Int := if imm.toInt < 0 then 4294967296 + imm.toInt else imm.toInt
    let traps (c : Prop) (i : Instr) :=
      (c → exec i s = takeException .trap s ∧ (s.ready → Enters (exec i s) s 13 s.cp0.badVAddr)) ∧
        (¬c → Passes (exec i s) s)
    traps (a = b) (.teq rs rt code) ∧ traps (a ≠ b) (.tne rs rt code) ∧
      traps (b.toInt ≤ a.toInt) (.tge rs rt code) ∧ traps (b.toNat ≤ a.toNat) (.tgeu rs rt code) ∧
      traps (a.toInt < b.toInt) (.tlt rs rt code) ∧ traps (a.toNat < b.toNat) (.tltu rs rt code) ∧
      traps (a.toInt = n) (.teqi rs imm) ∧ traps (a.toInt ≠ n) (.tnei rs imm) ∧
      traps (n ≤ a.toInt) (.tgei rs imm) ∧ traps (un ≤ a.toNat) (.tgeiu rs imm) ∧
      traps (a.toInt < n) (.tlti rs imm) ∧ traps ((a.toNat : Int) < un) (.tltiu rs imm)

/-! ## Coprocessor 0 -/

/-- Without Debug Mode, kernel mode or Status.CU0, every coprocessor 0 instruction raises Coprocessor Unusable with
Cause.CE = 0 and has none of its effect (R300). The class row COP0, with access: a function MIPS32 Release 2 does
not define is a Reserved Instruction; the TLB operations, which the source's table does not list, are refused
(R301). -/
def Obligations.Cop0Access : Prop :=
  (∀ (s : State) (rt rd : Reg) (sel : BitVec 3) (code : BitVec 19) (cofun : BitVec 25), s.ready →
      kernelMode s.cp0.status = false → statusCU0 s.cp0.status = false →
        let raises (i : Instr) :=
          Enters (exec i s) s 11 s.cp0.badVAddr ∧ ∀ t, exec i s = .next t → t.cp0.causeCE = 0
        (∀ i ∈ [Instr.mfc0 rt rd sel, .mtc0 rt rd sel, .di rt, .ei rt, .rdpgpr rd rt, .wrpgpr rd rt], raises i) ∧
          (s.flow.inDs = false → ∀ i ∈ [Instr.eret, .deret, .wait code, .cop0 cofun], raises i)) ∧
    ∀ (s : State) (cofun : BitVec 25), s.cop0Usable = true →
      (cofun ∉ [0x01, 0x02, 0x06, 0x08, 0x18, 0x1F] → cofun.extractLsb' 0 6 ≠ 0x20 → s.ready →
          Enters (exec (.cop0 cofun) s) s 10 s.cp0.badVAddr) ∧
        (cofun ∈ [0x01, 0x02, 0x06, 0x08] → exec (.cop0 cofun) s = .refused .tlbOperation)

/-- MFC0 with access delivers the register; of one written since the last barrier, the value before or after; Count,
LLAddr and a register that is not there deliver some value (R302, R405; logs 2, 5, 17). Cause shows CE in bits 29:28
and in bits 15:10 what the step's input presents: the lines as IP7..IP2, with the timer request TI merged into
IP(IntCtl.IPTI), or in external-controller mode RIPL without it (R32, R352, R353; log 7); its other bits are those
stored. -/
def Obligations.MoveFromCop0 : Prop :=
  ∀ (s : State) (rt : Reg) (rd : BitVec 5) (sel : BitVec 3), s.cop0Usable = true →
    (∃ v, Writes (exec (.mfc0 rt rd sel) s) s rt v) ∧
      (∀ r, CpRegOf rd sel = some r → r ≠ .count → r ≠ .llAddr →
        let shown (stored : Word) := if r = .cause then s.causeWord stored else stored
        (∃ v, (v = shown (s.stored r) ∨ v = shown ((s.hz.hazard.lookup r).getD (s.stored r))) ∧
          Writes (exec (.mfc0 rt rd sel) s) s rt v) ∧
        (s.hz.hazard.lookup r = none → Writes (exec (.mfc0 rt rd sel) s) s rt (shown (s.stored r)))) ∧
      (rd = 13 → sel = 0 → s.hz.hazard = [] → s.cp0.cause &&& 0x3000FC00 = 0 →
        let ca := s.cp0.cause
        let external := bit s.cp0.config3 6 && bit ca 23 && !statusBEV s.cp0.status && field s.cp0.intCtl 5 5 != 0
        let timer := bit ca 30 && !external
        ∃ v, Writes (exec (.mfc0 rt rd sel) s) s rt v ∧ field v 28 2 = s.cp0.causeCE ∧
          (∀ k, k < 6 →
            bit v (10 + k) = (s.port.lines.getLsbD k || timer && (field s.cp0.intCtl 29 3).toNat == k + 2)) ∧
          ∀ k, k < 10 ∨ (16 ≤ k ∧ k < 28) ∨ 30 ≤ k → bit v k = bit ca k)

/-- MTC0 with access writes the register under its mask and no other, but that writing Compare clears Cause.TI. It
stops when it would give IntCtl.VS a value that is not 0, 1, 2, 4, 8 or 16, or a field of SRSCtl or SRSMap a set above
HSS; SRSMap has no writable bits while HSS is 0, when it holds 0 by the invariant of StepKeepsSets. The earlier value
is recorded until a barrier, of Compare also that of Cause when TI was set, and Status as an instruction hazard when UM,
EXL or ERL changes. A write to a register that is not there is ignored (R303, R408; logs 2, 5, 26). -/
def Obligations.MoveToCop0 : Prop :=
  ∀ (s : State) (rt : Reg) (rd : BitVec 5) (sel : BitVec 3), s.cop0Usable = true →
    (CpRegOf rd sel = none → Passes (exec (.mtc0 rt rd sel) s) s) ∧
      ∀ r, CpRegOf rd sel = some r →
        let x := s.reg rt
        let wrongSpacing : Prop := r = .intCtl ∧ (field x 5 5).toNat ∉ [0, 1, 2, 4, 8, 16]
        let wrongSet : Prop :=
          (r = .srsCtl ∧ (s.hss < field x 12 4 ∨ s.hss < field x 6 4)) ∨
            (r = .srsMap ∧ s.hss ≠ 0 ∧ ∃ v, v < 8 ∧ s.hss < field x (4 * v) 4)
        let changes (old new : Word) := bit old 4 ≠ bit new 4 ∨ bit old 1 ≠ bit new 1 ∨ bit old 2 ≠ bit new 2
        (wrongSpacing → exec (.mtc0 rt rd sel) s = .fault .illegalVectorSpacing) ∧
          (wrongSet → exec (.mtc0 rt rd sel) s = .fault .shadowSetOutOfRange) ∧
          (¬wrongSpacing → ¬wrongSet → (r = .srsMap → s.hss = 0 → s.cp0.srsMap = 0) →
            ∃ t, exec (.mtc0 rt rd sel) s = .next t ∧ t.stored r = s.written r x ∧
              (∀ q, q ≠ r → t.stored q =
                if q = .cause ∧ r = .compare then setBit s.cp0.cause 30 false else s.stored q) ∧
              t.cp0.causeCE = s.cp0.causeCE ∧ t.waiting = s.waiting ∧
              (s.flow.inDs = false →
                (∀ q, t.hz.hazard.lookup q =
                  if q = r ∨ (q = .cause ∧ r = .compare ∧ bit s.cp0.cause 30 = true) then
                    some ((s.hz.hazard.lookup q).getD (s.stored q))
                  else s.hz.hazard.lookup q) ∧
                t.hz.ihazard =
                  (if r = .status ∧ s.hz.ihazard = none ∧ changes s.cp0.status (s.written .status x) then
                      some s.cp0.status
                    else s.hz.ihazard) ∧
                t.hz.hbPending = s.hz.hbPending ∧ t.hz.staleText = s.hz.staleText) ∧
              SameRegisters s t ∧ SameHiLo s t ∧ SameLink s t ∧ SamePlatform s t ∧ SameMemory s t ∧ InSequence s t)

/-- The bits MTC0 can write, register by register; TS, SR, NMI and WP can only be cleared (R303), for the
StatusWriteMask that R31 suggests. Whether Debug's IBusEP, which can only be cleared, and DBusEP are among them, as R36
has it against the list of R303, is an open parameter of the model (log 40). -/
def Obligations.WriteMasks : Prop :=
  ∀ (s : State) (x : Word), s.platform.statusWriteMask = 0x1878FF17 →
    let free (r : CpReg) (p : Nat → Bool) :=
      ∀ i, i < 32 → bit (s.written r x) i = if p i then bit x i else bit (s.stored r) i
    (∀ r ∈ [CpReg.epc, .errorEpc, .depc, .desave, .count, .compare], free r fun _ => true) ∧
      (∀ r ∈ [CpReg.badVAddr, .prid, .config1, .config2, .config3, .llAddr], free r fun _ => false) ∧
      (∀ i, i < 32 → bit (s.written .status x) i =
        if i = 19 ∨ i = 20 ∨ i = 21 then bit x i && bit s.cp0.status i
        else if i ≤ 2 ∨ i = 4 ∨ (8 ≤ i ∧ i ≤ 15) ∨ i = 22 ∨ i = 27 ∨ i = 28 then bit x i else bit s.cp0.status i) ∧
      (∀ i, i < 32 → bit (s.written .cause x) i =
        if i = 22 then bit x i && bit s.cp0.cause i
        else if i = 8 ∨ i = 9 ∨ i = 23 ∨ i = 27 then bit x i else bit s.cp0.cause i) ∧
      free .intCtl (fun i => decide (5 ≤ i) && decide (i ≤ 9)) ∧
      free .srsCtl (fun i => decide (6 ≤ i) && decide (i ≤ 9) || decide (12 ≤ i) && decide (i ≤ 15)) ∧
      free .srsMap (fun _ => s.hss != 0) ∧ free .ebase (fun i => decide (12 ≤ i) && decide (i ≤ 29)) ∧
      free .hwrena (fun i => s.platform.hwrenaImplMask.getLsbD i) ∧ free .config (fun i => decide (i ≤ 2)) ∧
      ∀ i, i < 32 → bit (s.written .debug x) i =
        if s.inDebug = true ∧ (i = 8 ∨ i = 20 ∨ i = 25 ∨ i = 28 ∨ (s.platform.busErrorBits = true ∧ i = 21)) then bit x i
        else if s.inDebug = true ∧ s.platform.busErrorBits = true ∧ i = 24 then bit x i && bit s.cp0.debug i
        else bit s.cp0.debug i

/-- DI and EI with access deliver Status as it was and clear or set IE and no other bit; outside a delay slot the
record of coprocessor 0 hazards then holds the Status before them, and nothing else is recorded (R304, R305, R405,
R408). -/
def Obligations.InterruptEnable : Prop :=
  ∀ (s : State) (rt : Reg), s.cop0Usable = true → s.hz.hazard = [] →
    let does (i : Instr) (enable : Bool) :=
      ∃ t, exec i s = .next t ∧ t.reg rt = (if rt = 0 then 0 else s.cp0.status) ∧ OnlyRegister s t rt ∧
        (∀ k, k < 32 → bit t.cp0.status k = if k = 0 then enable else bit s.cp0.status k) ∧
        { t.cp0 with status := s.cp0.status } = s.cp0 ∧ t.waiting = s.waiting ∧ SameHiLo s t ∧ SameLink s t ∧
        SamePlatform s t ∧ SameMemory s t ∧ InSequence s t ∧
        (s.flow.inDs = false → t.hz = { s.hz with hazard := [(.status, s.cp0.status)] })
    does (.di rt) false ∧ does (.ei rt) true

/-- ERET with access, outside a delay slot, nothing waiting for a barrier: LLbit is cleared; the level bit chosen by
ERL is cleared; control goes to ErrorEPC or EPC without a delay slot, in the ISA mode of its bit 0; the previous
register set returns (R306). DERET in Debug Mode leaves it for DEPC; outside Debug Mode, with access, it is a Reserved
Instruction (R307; log 4). That npc is the return address + 2, where R26 has + 4, when bit 0 of the return word selects
MIPS16e mode is the model's choice (log 33). -/
def Obligations.ReturnFromException : Prop :=
  ∀ s : State, s.flow.inDs = false → s.hz.hazard = [] →
    let st := s.cp0.status
    let erl := statusERL st
    let there (word : Word) : Flow :=
      ⟨word &&& 0xFFFFFFFE, (word &&& 0xFFFFFFFE) + (if bit word 0 then 2 else 4), bit word 0, false, bit word 0⟩
    (s.cop0Usable = true →
        ∃ t, exec .eret s = .next t ∧ t.llBit = false ∧ t.llAddr = s.llAddr ∧
          t.flow = there (if erl then s.cp0.errorEpc else s.cp0.epc) ∧
          (∀ k, k < 32 → bit t.cp0.status k = if k = (if erl then 2 else 1) then false else bit st k) ∧
          (if erl = false ∧ s.hss ≠ 0 ∧ statusBEV st = false then
              t.css = s.pss ∧ setField t.cp0.srsCtl 0 s.css = s.cp0.srsCtl
            else t.cp0.srsCtl = s.cp0.srsCtl) ∧
          { t.cp0 with status := st, srsCtl := s.cp0.srsCtl } = s.cp0 ∧ t.hz = Hazards.none ∧
          t.waiting = s.waiting ∧ SameRegisters s t ∧ SameHiLo s t ∧ SamePlatform s t ∧ SameMemory s t) ∧
      (s.inDebug = true →
        ∃ t, exec .deret s = .next t ∧ t.inDebug = false ∧ bit t.cp0.debug 20 = false ∧
          (∀ k, k < 32 → k ≠ 30 → k ≠ 20 → bit t.cp0.debug k = bit s.cp0.debug k) ∧ t.flow = there s.cp0.depc ∧
          { t.cp0 with debug := s.cp0.debug } = s.cp0 ∧ t.hz = Hazards.none ∧ t.waiting = s.waiting ∧
          SameRegisters s t ∧ SameHiLo s t ∧ SameLink s t ∧ SamePlatform s t ∧ SameMemory s t) ∧
      (s.ready → s.cop0Usable = true → Enters (exec .deret s) s 10 s.cp0.badVAddr)

/-- RDHWR reads an implemented hardware register in Debug Mode or where the mode, CU0 or HWREna allows it, and is a
Reserved Instruction otherwise (R308; log 17 for CC). -/
def Obligations.HardwareRegisters : Prop :=
  ∀ (s : State) (rt : Reg) (rd : BitVec 5), s.hz.hazard = [] →
    let st := s.cp0.status
    let allowed : Prop := rd.toNat ≤ 3 ∧ s.platform.hwrenaImplMask.getLsbD rd.toNat = true ∧
      (s.inDebug = true ∨ kernelMode st = true ∨ statusCU0 st = true ∨ bit s.cp0.hwrena rd.toNat = true)
    (allowed → (∃ v, Writes (exec (.rdhwr rt rd) s) s rt v) ∧
        (rd = 0 → Writes (exec (.rdhwr rt rd) s) s rt (s.cp0.ebase &&& 0x3FF)) ∧
        (rd = 1 → Writes (exec (.rdhwr rt rd) s) s rt s.platform.synciStep) ∧
        (rd = 3 → Writes (exec (.rdhwr rt rd) s) s rt s.platform.ccRes)) ∧
      (¬allowed → s.ready → Enters (exec (.rdhwr rt rd) s) s 10 s.cp0.badVAddr)

/-- RDPGPR reads, WRPGPR writes, a register of the previous shadow set, whose register 0 reads 0 and discards writes
(R309, R310). -/
def Obligations.ShadowRegisters : Prop :=
  ∀ (s : State) (rd rt : Reg), s.cop0Usable = true → s.hz.hazard = [] →
    Writes (exec (.rdpgpr rd rt) s) s rd (s.sreg s.pss rt) ∧
      ∃ t, exec (.wrpgpr rd rt) s = .next t ∧ t.sreg s.pss rd = (if rd = 0 then 0 else s.reg rt) ∧
        (∀ set r, ¬(set = s.pss ∧ r = rd) → t.sreg set r = s.sreg set r) ∧ SameRest s t ∧ InSequence s t ∧
        SameHazards s t

/-! ## MIPS16e -/

/-- ADDIUPC, ZEB, ZEH and LWPC write the register their 3-bit field names, and control goes on after the
instruction. JALRC and JRC go to the address in the register at once, in the ISA mode of its bit 0, without a delay
slot; JALRC links pc + 2 with bit 0 set (R331 to R334, R337, R338). That they run is the model's choice (logs 3, 24,
33). -/
def Obligations.CompactResults : Prop :=
  ∀ (s : State) (rx : Reg3) (imm : PcImm) (pa : Nat),
    let r : Reg := BitVec.ofNat 5 (if rx.toNat < 2 then rx.toNat + 16 else rx.toNat)
    let a : Word := (s.flow.pc &&& 0xFFFFFFFC) +
      (match imm with
       | .short i => BitVec.ofNat 32 (4 * i.toNat)
       | .extended i => BitVec.ofInt 32 i.toInt)
    let len : Word := (match imm with
       | .short _ => 2
       | .extended _ => 4)
    let writes (o : Out) (v len : Word) :=
      ∃ t, o = .next t ∧ t.reg r = v ∧ OnlyRegister s t r ∧ SameRest s t ∧ t.hz = s.hz ∧
        t.flow = ⟨s.flow.pc + len, s.flow.pc + len + 2, s.flow.isaMode, false, s.flow.isaMode⟩
    let there (v : Word) : Flow :=
      ⟨v &&& 0xFFFFFFFE, (v &&& 0xFFFFFFFE) + (if bit v 0 then 2 else 4), bit v 0, false, bit v 0⟩
    writes (exec (.addiupc rx imm) s) a len ∧ writes (exec (.zeb rx) s) (s.reg r &&& 0xFF) 2 ∧
      writes (exec (.zeh rx) s) (s.reg r &&& 0xFFFF) 2 ∧
      (a.toNat % 4 = 0 → s.place .load a 4 = .ok pa → writes (exec (.lwpc rx imm) s) (s.wordAt pa) len) ∧
      (s.flow.inDs = false →
        Links (exec (.jalrc rx) s) s 31 ((s.flow.pc + 2) ||| 1) (there (s.reg r)) ∧
          Moves (exec (.jrc (.rx rx)) s) s (there (s.reg r)) ∧ Moves (exec (.jrc .ra) s) s (there (s.reg 31)))

/-- SAVE to granted places just below an aligned stack pointer stores ra, s1, s0 downward, lowers register 29 by the
frame size (0 stands for 128) and changes no other register and no other byte (R335). RESTORE loads the same registers
from just below the raised stack pointer, raises register 29 and changes no other register and no memory (R336). When
a later access stops, by an exception, a fault or a refusal, what was stored or loaded before it stays done and
register 29 is unchanged. That they run is the model's choice (log 3), and so is npc, two past the next instruction
where R26 has + 4 (log 33). Left out: frames whose places are not contiguous or begin below 12, and a misaligned stack
pointer with no register to move (log 38). -/
def Obligations.SaveFrame : Prop :=
  ∀ (s : State) (ra s0 s1 : Bool) (n : BitVec 4) (pa : Nat),
    let regs := frameRegisters ra s0 s1
    let sp := s.reg 29
    let size := BitVec.ofNat 32 (if n = 0 then 128 else 8 * n.toNat)
    let after : Flow := ⟨s.flow.pc + 2, s.flow.pc + 4, s.flow.isaMode, false, s.flow.isaMode⟩
    sp.toNat % 4 = 0 → 12 ≤ pa →
      (s.mem.wf = true →
        (∀ k, k < regs.length →
          s.place .store (sp - BitVec.ofNat 32 (4 * (k + 1))) 4 = .ok (pa - 4 * (k + 1))) →
        ∃ t, exec (.save ra s0 s1 n) s = .next t ∧ t.reg 29 = sp - size ∧ OnlyRegister s t 29 ∧
          (∀ k (h : k < regs.length), t.wordAt (pa - 4 * (k + 1)) = s.reg regs[k]) ∧
          SameMemoryOutside s t (pa - 4 * regs.length) (4 * regs.length) ∧ SameHiLo s t ∧ SameLink s t ∧
          SameSystem s t ∧ t.flow = after) ∧
      (s.mem.wf = true → ∀ (j : Nat) (x : Stop), j < regs.length →
        (∀ k, k < j → s.place .store (sp - BitVec.ofNat 32 (4 * (k + 1))) 4 = .ok (pa - 4 * (k + 1))) →
        s.place .store (sp - BitVec.ofNat 32 (4 * (j + 1))) 4 = .error x →
        ∃ u, exec (.save ra s0 s1 n) s = x.take u ∧
          (∀ k (h : k < regs.length), k < j → u.wordAt (pa - 4 * (k + 1)) = s.reg regs[k]) ∧
          SameMemoryOutside s u (pa - 4 * j) (4 * j) ∧ SameRegisters s u ∧ SameHiLo s u ∧ SameLink s u ∧
          SameSystem s u ∧ u.flow = s.flow) ∧
      ((∀ k, k < regs.length →
          s.place .load (sp + size - BitVec.ofNat 32 (4 * (k + 1))) 4 = .ok (pa - 4 * (k + 1))) →
        ∃ t, exec (.restore ra s0 s1 n) s = .next t ∧ t.reg 29 = sp + size ∧
          (∀ k (h : k < regs.length), t.reg regs[k] = s.wordAt (pa - 4 * (k + 1))) ∧
          (∀ set r, ¬(set = s.css ∧ (r = 29 ∨ r ∈ regs)) → t.sreg set r = s.sreg set r) ∧ SameRest s t ∧
          t.hz = s.hz ∧ t.flow = after) ∧
      ∀ (j : Nat) (x : Stop), j < regs.length →
        (∀ k, k < j → s.place .load (sp + size - BitVec.ofNat 32 (4 * (k + 1))) 4 = .ok (pa - 4 * (k + 1))) →
        s.place .load (sp + size - BitVec.ofNat 32 (4 * (j + 1))) 4 = .error x →
        ∃ u, exec (.restore ra s0 s1 n) s = x.take u ∧
          (∀ k (h : k < regs.length), k < j → u.reg regs[k] = s.wordAt (pa - 4 * (k + 1))) ∧
          (∀ set r, ¬(set = s.css ∧ r ∈ regs.take j) → u.sreg set r = s.sreg set r) ∧ SameRest s u ∧
          u.hz = s.hz ∧ u.flow = s.flow

/-- RESTORE undoes SAVE: from the state a SAVE left, with the places granted for loads as for stores, it gives every
register back and leaves memory as SAVE left it (R336). That they run is the model's choice (log 3), and so is npc, two
past the next instruction where R26 has + 4 (log 33). -/
def Obligations.RestoreUndoesSave : Prop :=
  ∀ (s t : State) (ra s0 s1 : Bool) (n : BitVec 4) (pa : Nat), s.mem.wf = true →
    let regs := frameRegisters ra s0 s1
    let sp := s.reg 29
    sp.toNat % 4 = 0 → 12 ≤ pa →
      (∀ k, k < regs.length →
        s.place .store (sp - BitVec.ofNat 32 (4 * (k + 1))) 4 = .ok (pa - 4 * (k + 1)) ∧
          s.place .load (sp - BitVec.ofNat 32 (4 * (k + 1))) 4 = .ok (pa - 4 * (k + 1))) →
        exec (.save ra s0 s1 n) s = .next t →
          ∃ u, exec (.restore ra s0 s1 n) t = .next u ∧ SameRegisters s u ∧ SameMemory t u ∧ SameHiLo t u ∧
            SameLink t u ∧ SameSystem t u ∧
            u.flow = ⟨t.flow.pc + 2, t.flow.pc + 4, t.flow.isaMode, false, t.flow.isaMode⟩

/-! ## The whole machine -/

/-- Only the stores, SC and SAVE change memory: exec of any other instruction that answers a next state leaves it as
it is (20_memory.md R60: no other row writes memory). -/
def Obligations.OnlyStoresChangeMemory : Prop :=
  ∀ (i : Instr) (s t : State), storing i = false → exec i s = .next t → t.mem = s.mem

/-- In user mode without Status.CU0, no instruction changes a coprocessor 0 register other than LLAddr but by raising
an exception, and up to that exception it has changed none (R300, R362, R363). LLAddr, register 17, is excepted: LL
writes it in every mode (R40, R253). -/
def Obligations.UserKeepsCop0 : Prop :=
  ∀ (i : Instr) (s t : State), s.settled → s.inDebug = false → kernelMode s.cp0.status = false →
    statusCU0 s.cp0.status = false → exec i s = .next t →
      t.cp0 = s.cp0 ∨ ∃ e u, u.cp0 = s.cp0 ∧ exec i s = takeException e u

/-- Every step keeps memory in its canonical form (a convention of the model, log 10). -/
def Obligations.StepKeepsCanonical : Prop := ∀ s t : State, s.canonical → step s = .next t → t.canonical

/-- Every step keeps the flow of control legal: pc and npc are even; outside a delay slot npc is the address after
the instruction; a delay slot is MIPS32 code at a word-aligned address; no wait begins in one; the barrier of JR.HB
waits only in one (10_state.md R26, R27; 43_branch_jump.md R200). That the next instruction is at pc + 2 at ISAMode = 1,
where R26 has pc + 4, and that steps run there at all, is the model's choice (logs 3, 33). -/
def Obligations.StepKeepsFlow : Prop := ∀ s t : State, s.flowLegal → step s = .next t → t.flowLegal

/-- Every step keeps the register sets legal: CSS, PSS, ESS and the fields of SRSMap name sets that exist, and
register 0 of every set holds 0 (10_state.md R21, R23, R37, R38). -/
def Obligations.StepKeepsSets : Prop := ∀ s t : State, s.setsLegal → step s = .next t → t.setsLegal

/-- Every step keeps the constant bits of Status, Cause, SRSCtl, IntCtl, EBase and HWREna, and the legal values of
IntCtl.VS, for a StatusWriteMask within the one R31 suggests (10_state.md R31, R32, R37, R39, R43, R44; log 13). -/
def Obligations.StepKeepsReserved : Prop := ∀ s t : State, s.reservedLegal → step s = .next t → t.reservedLegal

/-- The four invariants hold after reset. -/
def Obligations.ResetInvariants : Prop :=
  State.reset.canonical ∧ State.reset.flowLegal ∧ State.reset.setsLegal ∧ State.reset.reservedLegal
end

