-- ==== Sys2Proof/Laws/Encoding.lean ====
section
/-! SUPPORT. The cuts of a word and of a halfword are put together again without loss. -/

namespace Sys2Proof

/-- Fields put together and cut again. -/
theorem Fields.ofWord_toWord (f : Fields) : Fields.ofWord f.toWord = f := by
  obtain ⟨op, rs, rt, rd, sa, fn⟩ := f
  simp only [Fields.ofWord, Fields.toWord, Fields.mk.injEq]
  refine ⟨?_, ?_, ?_, ?_, ?_, ?_⟩ <;>
    (apply BitVec.eq_of_getLsbD_eq; intro i hi
     simp only [BitVec.getLsbD_extractLsb', BitVec.getLsbD_append]
     interval_cases i <;> simp)

/-- A word cut and put together again. -/
theorem Fields.toWord_ofWord (w : Word) : (Fields.ofWord w).toWord = w := by
  simp only [Fields.ofWord, Fields.toWord]
  apply BitVec.eq_of_getLsbD_eq; intro i hi
  simp only [BitVec.getLsbD_extractLsb', BitVec.getLsbD_append]
  interval_cases i <;> simp

@[simp] theorem Fields.ofImm_imm (op : BitVec 6) (rs rt : BitVec 5) (imm : Half) :
    (Fields.ofImm op rs rt imm).imm = imm := by
  apply BitVec.eq_of_getLsbD_eq; intro i hi
  simp only [Fields.imm, Fields.ofImm, BitVec.getLsbD_extractLsb', BitVec.getLsbD_append]
  interval_cases i <;> simp

@[simp] theorem Fields.ofIndex_index (op : BitVec 6) (j : BitVec 26) : (Fields.ofIndex op j).index = j := by
  apply BitVec.eq_of_getLsbD_eq; intro i hi
  simp only [Fields.index, Fields.ofIndex, BitVec.getLsbD_extractLsb', BitVec.getLsbD_append]
  interval_cases i <;> simp

@[simp] theorem Fields.ofCode20_code20 (op : BitVec 6) (c : BitVec 20) (fn : BitVec 6) :
    (Fields.ofCode20 op c fn).code20 = c := by
  apply BitVec.eq_of_getLsbD_eq; intro i hi
  simp only [Fields.code20, Fields.ofCode20, BitVec.getLsbD_extractLsb', BitVec.getLsbD_append]
  interval_cases i <;> simp

@[simp] theorem Fields.ofTrap_code10 (rs rt : Reg) (c : BitVec 10) (fn : BitVec 6) :
    (Fields.ofTrap rs rt c fn).code10 = c := by
  apply BitVec.eq_of_getLsbD_eq; intro i hi
  simp only [Fields.code10, Fields.ofTrap, BitVec.getLsbD_extractLsb', BitVec.getLsbD_append]
  interval_cases i <;> simp

@[simp] theorem Fields.ofCofun_cofun (c : BitVec 25) : (Fields.ofCofun c).cofun = c := by
  apply BitVec.eq_of_getLsbD_eq; intro i hi
  simp only [Fields.cofun, Fields.ofCofun, BitVec.getLsbD_extractLsb', BitVec.getLsbD_append]
  interval_cases i <;> simp

@[simp] theorem Fields.ofCode19_code19 (c : BitVec 19) : (Fields.ofCode19 c).code19 = c := by
  apply BitVec.eq_of_getLsbD_eq; intro i hi
  simp only [Fields.code19, Fields.ofCode19, BitVec.getLsbD_extractLsb', BitVec.getLsbD_append]
  interval_cases i <;> simp

/-- Half fields put together and cut again. -/
theorem HalfFields.ofHalf_toHalf (f : HalfFields) : HalfFields.ofHalf f.toHalf = f := by
  obtain ⟨major, rx, low⟩ := f
  simp only [HalfFields.ofHalf, HalfFields.toHalf, HalfFields.mk.injEq]
  refine ⟨?_, ?_, ?_⟩ <;>
    (apply BitVec.eq_of_getLsbD_eq; intro i hi
     simp only [BitVec.getLsbD_extractLsb', BitVec.getLsbD_append]
     interval_cases i <;> simp)

/-- A halfword cut and put together again. -/
theorem HalfFields.toHalf_ofHalf (h : Half) : (HalfFields.ofHalf h).toHalf = h := by
  simp only [HalfFields.ofHalf, HalfFields.toHalf]
  apply BitVec.eq_of_getLsbD_eq; intro i hi
  simp only [BitVec.getLsbD_extractLsb', BitVec.getLsbD_append]
  interval_cases i <;> simp

end Sys2Proof
end

