-- ==== Sys2Proof/Laws/State.lean ====
section
/-! SUPPORT. One lemma per field per update of the state, so that no proof unfolds a record update. -/

namespace Sys2Proof.Machine

/-! ## setFlow -/

@[simp] theorem State.setFlow_regs (s : State) (f : Flow) : (s.setFlow f).regs = s.regs := rfl
@[simp] theorem State.setFlow_hi (s : State) (f : Flow) : (s.setFlow f).hi = s.hi := rfl
@[simp] theorem State.setFlow_lo (s : State) (f : Flow) : (s.setFlow f).lo = s.lo := rfl
@[simp] theorem State.setFlow_hiloUnread (s : State) (f : Flow) : (s.setFlow f).hiloUnread = s.hiloUnread := rfl
@[simp] theorem State.setFlow_flow (s : State) (f : Flow) : (s.setFlow f).flow = f := rfl
@[simp] theorem State.setFlow_llBit (s : State) (f : Flow) : (s.setFlow f).llBit = s.llBit := rfl
@[simp] theorem State.setFlow_llAddr (s : State) (f : Flow) : (s.setFlow f).llAddr = s.llAddr := rfl
@[simp] theorem State.setFlow_cp0 (s : State) (f : Flow) : (s.setFlow f).cp0 = s.cp0 := rfl
@[simp] theorem State.setFlow_waiting (s : State) (f : Flow) : (s.setFlow f).waiting = s.waiting := rfl
@[simp] theorem State.setFlow_hz (s : State) (f : Flow) : (s.setFlow f).hz = s.hz := rfl
@[simp] theorem State.setFlow_port (s : State) (f : Flow) : (s.setFlow f).port = s.port := rfl
@[simp] theorem State.setFlow_stepped (s : State) (f : Flow) : (s.setFlow f).stepped = s.stepped := rfl
@[simp] theorem State.setFlow_platform (s : State) (f : Flow) : (s.setFlow f).platform = s.platform := rfl
@[simp] theorem State.setFlow_inputs (s : State) (f : Flow) : (s.setFlow f).inputs = s.inputs := rfl
@[simp] theorem State.setFlow_draws (s : State) (f : Flow) : (s.setFlow f).draws = s.draws := rfl
@[simp] theorem State.setFlow_mem (s : State) (f : Flow) : (s.setFlow f).mem = s.mem := rfl

/-! ## setCp0 -/

@[simp] theorem State.setCp0_regs (s : State) (c : Cp0) : (s.setCp0 c).regs = s.regs := rfl
@[simp] theorem State.setCp0_hi (s : State) (c : Cp0) : (s.setCp0 c).hi = s.hi := rfl
@[simp] theorem State.setCp0_lo (s : State) (c : Cp0) : (s.setCp0 c).lo = s.lo := rfl
@[simp] theorem State.setCp0_hiloUnread (s : State) (c : Cp0) : (s.setCp0 c).hiloUnread = s.hiloUnread := rfl
@[simp] theorem State.setCp0_flow (s : State) (c : Cp0) : (s.setCp0 c).flow = s.flow := rfl
@[simp] theorem State.setCp0_llBit (s : State) (c : Cp0) : (s.setCp0 c).llBit = s.llBit := rfl
@[simp] theorem State.setCp0_llAddr (s : State) (c : Cp0) : (s.setCp0 c).llAddr = s.llAddr := rfl
@[simp] theorem State.setCp0_cp0 (s : State) (c : Cp0) : (s.setCp0 c).cp0 = c := rfl
@[simp] theorem State.setCp0_waiting (s : State) (c : Cp0) : (s.setCp0 c).waiting = s.waiting := rfl
@[simp] theorem State.setCp0_hz (s : State) (c : Cp0) : (s.setCp0 c).hz = s.hz := rfl
@[simp] theorem State.setCp0_port (s : State) (c : Cp0) : (s.setCp0 c).port = s.port := rfl
@[simp] theorem State.setCp0_stepped (s : State) (c : Cp0) : (s.setCp0 c).stepped = s.stepped := rfl
@[simp] theorem State.setCp0_platform (s : State) (c : Cp0) : (s.setCp0 c).platform = s.platform := rfl
@[simp] theorem State.setCp0_inputs (s : State) (c : Cp0) : (s.setCp0 c).inputs = s.inputs := rfl
@[simp] theorem State.setCp0_draws (s : State) (c : Cp0) : (s.setCp0 c).draws = s.draws := rfl
@[simp] theorem State.setCp0_mem (s : State) (c : Cp0) : (s.setCp0 c).mem = s.mem := rfl

/-! ## setHz -/

@[simp] theorem State.setHz_regs (s : State) (h : Hazards) : (s.setHz h).regs = s.regs := rfl
@[simp] theorem State.setHz_hi (s : State) (h : Hazards) : (s.setHz h).hi = s.hi := rfl
@[simp] theorem State.setHz_lo (s : State) (h : Hazards) : (s.setHz h).lo = s.lo := rfl
@[simp] theorem State.setHz_hiloUnread (s : State) (h : Hazards) : (s.setHz h).hiloUnread = s.hiloUnread := rfl
@[simp] theorem State.setHz_flow (s : State) (h : Hazards) : (s.setHz h).flow = s.flow := rfl
@[simp] theorem State.setHz_llBit (s : State) (h : Hazards) : (s.setHz h).llBit = s.llBit := rfl
@[simp] theorem State.setHz_llAddr (s : State) (h : Hazards) : (s.setHz h).llAddr = s.llAddr := rfl
@[simp] theorem State.setHz_cp0 (s : State) (h : Hazards) : (s.setHz h).cp0 = s.cp0 := rfl
@[simp] theorem State.setHz_waiting (s : State) (h : Hazards) : (s.setHz h).waiting = s.waiting := rfl
@[simp] theorem State.setHz_hz (s : State) (h : Hazards) : (s.setHz h).hz = h := rfl
@[simp] theorem State.setHz_port (s : State) (h : Hazards) : (s.setHz h).port = s.port := rfl
@[simp] theorem State.setHz_stepped (s : State) (h : Hazards) : (s.setHz h).stepped = s.stepped := rfl
@[simp] theorem State.setHz_platform (s : State) (h : Hazards) : (s.setHz h).platform = s.platform := rfl
@[simp] theorem State.setHz_inputs (s : State) (h : Hazards) : (s.setHz h).inputs = s.inputs := rfl
@[simp] theorem State.setHz_draws (s : State) (h : Hazards) : (s.setHz h).draws = s.draws := rfl
@[simp] theorem State.setHz_mem (s : State) (h : Hazards) : (s.setHz h).mem = s.mem := rfl

/-! ## setHiLo -/

@[simp] theorem State.setHiLo_regs (s : State) (hi lo : Option Word) (u : Bool) : (s.setHiLo hi lo u).regs = s.regs := rfl
@[simp] theorem State.setHiLo_hi (s : State) (hi lo : Option Word) (u : Bool) : (s.setHiLo hi lo u).hi = hi := rfl
@[simp] theorem State.setHiLo_lo (s : State) (hi lo : Option Word) (u : Bool) : (s.setHiLo hi lo u).lo = lo := rfl
@[simp] theorem State.setHiLo_hiloUnread (s : State) (hi lo : Option Word) (u : Bool) : (s.setHiLo hi lo u).hiloUnread = u := rfl
@[simp] theorem State.setHiLo_flow (s : State) (hi lo : Option Word) (u : Bool) : (s.setHiLo hi lo u).flow = s.flow := rfl
@[simp] theorem State.setHiLo_llBit (s : State) (hi lo : Option Word) (u : Bool) : (s.setHiLo hi lo u).llBit = s.llBit := rfl
@[simp] theorem State.setHiLo_llAddr (s : State) (hi lo : Option Word) (u : Bool) : (s.setHiLo hi lo u).llAddr = s.llAddr := rfl
@[simp] theorem State.setHiLo_cp0 (s : State) (hi lo : Option Word) (u : Bool) : (s.setHiLo hi lo u).cp0 = s.cp0 := rfl
@[simp] theorem State.setHiLo_waiting (s : State) (hi lo : Option Word) (u : Bool) : (s.setHiLo hi lo u).waiting = s.waiting := rfl
@[simp] theorem State.setHiLo_hz (s : State) (hi lo : Option Word) (u : Bool) : (s.setHiLo hi lo u).hz = s.hz := rfl
@[simp] theorem State.setHiLo_port (s : State) (hi lo : Option Word) (u : Bool) : (s.setHiLo hi lo u).port = s.port := rfl
@[simp] theorem State.setHiLo_stepped (s : State) (hi lo : Option Word) (u : Bool) : (s.setHiLo hi lo u).stepped = s.stepped := rfl
@[simp] theorem State.setHiLo_platform (s : State) (hi lo : Option Word) (u : Bool) : (s.setHiLo hi lo u).platform = s.platform := rfl
@[simp] theorem State.setHiLo_inputs (s : State) (hi lo : Option Word) (u : Bool) : (s.setHiLo hi lo u).inputs = s.inputs := rfl
@[simp] theorem State.setHiLo_draws (s : State) (hi lo : Option Word) (u : Bool) : (s.setHiLo hi lo u).draws = s.draws := rfl
@[simp] theorem State.setHiLo_mem (s : State) (hi lo : Option Word) (u : Bool) : (s.setHiLo hi lo u).mem = s.mem := rfl

/-! ## setLink -/

@[simp] theorem State.setLink_regs (s : State) (b : Bool) (a : Word) : (s.setLink b a).regs = s.regs := rfl
@[simp] theorem State.setLink_hi (s : State) (b : Bool) (a : Word) : (s.setLink b a).hi = s.hi := rfl
@[simp] theorem State.setLink_lo (s : State) (b : Bool) (a : Word) : (s.setLink b a).lo = s.lo := rfl
@[simp] theorem State.setLink_hiloUnread (s : State) (b : Bool) (a : Word) : (s.setLink b a).hiloUnread = s.hiloUnread := rfl
@[simp] theorem State.setLink_flow (s : State) (b : Bool) (a : Word) : (s.setLink b a).flow = s.flow := rfl
@[simp] theorem State.setLink_llBit (s : State) (b : Bool) (a : Word) : (s.setLink b a).llBit = b := rfl
@[simp] theorem State.setLink_llAddr (s : State) (b : Bool) (a : Word) : (s.setLink b a).llAddr = a := rfl
@[simp] theorem State.setLink_cp0 (s : State) (b : Bool) (a : Word) : (s.setLink b a).cp0 = s.cp0 := rfl
@[simp] theorem State.setLink_waiting (s : State) (b : Bool) (a : Word) : (s.setLink b a).waiting = s.waiting := rfl
@[simp] theorem State.setLink_hz (s : State) (b : Bool) (a : Word) : (s.setLink b a).hz = s.hz := rfl
@[simp] theorem State.setLink_port (s : State) (b : Bool) (a : Word) : (s.setLink b a).port = s.port := rfl
@[simp] theorem State.setLink_stepped (s : State) (b : Bool) (a : Word) : (s.setLink b a).stepped = s.stepped := rfl
@[simp] theorem State.setLink_platform (s : State) (b : Bool) (a : Word) : (s.setLink b a).platform = s.platform := rfl
@[simp] theorem State.setLink_inputs (s : State) (b : Bool) (a : Word) : (s.setLink b a).inputs = s.inputs := rfl
@[simp] theorem State.setLink_draws (s : State) (b : Bool) (a : Word) : (s.setLink b a).draws = s.draws := rfl
@[simp] theorem State.setLink_mem (s : State) (b : Bool) (a : Word) : (s.setLink b a).mem = s.mem := rfl

/-! ## The register updates -/

@[simp] theorem State.setSreg_hi (s : State) (set : BitVec 4) (i : Reg) (v : Word) : (s.setSreg set i v).hi = s.hi := by
  unfold State.setSreg; split <;> rfl
@[simp] theorem State.setSreg_lo (s : State) (set : BitVec 4) (i : Reg) (v : Word) : (s.setSreg set i v).lo = s.lo := by
  unfold State.setSreg; split <;> rfl
@[simp] theorem State.setSreg_hiloUnread (s : State) (set : BitVec 4) (i : Reg) (v : Word) : (s.setSreg set i v).hiloUnread = s.hiloUnread := by
  unfold State.setSreg; split <;> rfl
@[simp] theorem State.setSreg_flow (s : State) (set : BitVec 4) (i : Reg) (v : Word) : (s.setSreg set i v).flow = s.flow := by
  unfold State.setSreg; split <;> rfl
@[simp] theorem State.setSreg_llBit (s : State) (set : BitVec 4) (i : Reg) (v : Word) : (s.setSreg set i v).llBit = s.llBit := by
  unfold State.setSreg; split <;> rfl
@[simp] theorem State.setSreg_llAddr (s : State) (set : BitVec 4) (i : Reg) (v : Word) : (s.setSreg set i v).llAddr = s.llAddr := by
  unfold State.setSreg; split <;> rfl
@[simp] theorem State.setSreg_cp0 (s : State) (set : BitVec 4) (i : Reg) (v : Word) : (s.setSreg set i v).cp0 = s.cp0 := by
  unfold State.setSreg; split <;> rfl
@[simp] theorem State.setSreg_waiting (s : State) (set : BitVec 4) (i : Reg) (v : Word) : (s.setSreg set i v).waiting = s.waiting := by
  unfold State.setSreg; split <;> rfl
@[simp] theorem State.setSreg_hz (s : State) (set : BitVec 4) (i : Reg) (v : Word) : (s.setSreg set i v).hz = s.hz := by
  unfold State.setSreg; split <;> rfl
@[simp] theorem State.setSreg_port (s : State) (set : BitVec 4) (i : Reg) (v : Word) : (s.setSreg set i v).port = s.port := by
  unfold State.setSreg; split <;> rfl
@[simp] theorem State.setSreg_stepped (s : State) (set : BitVec 4) (i : Reg) (v : Word) : (s.setSreg set i v).stepped = s.stepped := by
  unfold State.setSreg; split <;> rfl
@[simp] theorem State.setSreg_platform (s : State) (set : BitVec 4) (i : Reg) (v : Word) : (s.setSreg set i v).platform = s.platform := by
  unfold State.setSreg; split <;> rfl
@[simp] theorem State.setSreg_inputs (s : State) (set : BitVec 4) (i : Reg) (v : Word) : (s.setSreg set i v).inputs = s.inputs := by
  unfold State.setSreg; split <;> rfl
@[simp] theorem State.setSreg_draws (s : State) (set : BitVec 4) (i : Reg) (v : Word) : (s.setSreg set i v).draws = s.draws := by
  unfold State.setSreg; split <;> rfl
@[simp] theorem State.setSreg_mem (s : State) (set : BitVec 4) (i : Reg) (v : Word) : (s.setSreg set i v).mem = s.mem := by
  unfold State.setSreg; split <;> rfl

@[simp] theorem State.setReg_hi (s : State) (i : Reg) (v : Word) : (s.setReg i v).hi = s.hi :=
  s.setSreg_hi s.css i v
@[simp] theorem State.setReg_lo (s : State) (i : Reg) (v : Word) : (s.setReg i v).lo = s.lo :=
  s.setSreg_lo s.css i v
@[simp] theorem State.setReg_hiloUnread (s : State) (i : Reg) (v : Word) : (s.setReg i v).hiloUnread = s.hiloUnread :=
  s.setSreg_hiloUnread s.css i v
@[simp] theorem State.setReg_flow (s : State) (i : Reg) (v : Word) : (s.setReg i v).flow = s.flow :=
  s.setSreg_flow s.css i v
@[simp] theorem State.setReg_llBit (s : State) (i : Reg) (v : Word) : (s.setReg i v).llBit = s.llBit :=
  s.setSreg_llBit s.css i v
@[simp] theorem State.setReg_llAddr (s : State) (i : Reg) (v : Word) : (s.setReg i v).llAddr = s.llAddr :=
  s.setSreg_llAddr s.css i v
@[simp] theorem State.setReg_cp0 (s : State) (i : Reg) (v : Word) : (s.setReg i v).cp0 = s.cp0 :=
  s.setSreg_cp0 s.css i v
@[simp] theorem State.setReg_waiting (s : State) (i : Reg) (v : Word) : (s.setReg i v).waiting = s.waiting :=
  s.setSreg_waiting s.css i v
@[simp] theorem State.setReg_hz (s : State) (i : Reg) (v : Word) : (s.setReg i v).hz = s.hz :=
  s.setSreg_hz s.css i v
@[simp] theorem State.setReg_port (s : State) (i : Reg) (v : Word) : (s.setReg i v).port = s.port :=
  s.setSreg_port s.css i v
@[simp] theorem State.setReg_stepped (s : State) (i : Reg) (v : Word) : (s.setReg i v).stepped = s.stepped :=
  s.setSreg_stepped s.css i v
@[simp] theorem State.setReg_platform (s : State) (i : Reg) (v : Word) : (s.setReg i v).platform = s.platform :=
  s.setSreg_platform s.css i v
@[simp] theorem State.setReg_inputs (s : State) (i : Reg) (v : Word) : (s.setReg i v).inputs = s.inputs :=
  s.setSreg_inputs s.css i v
@[simp] theorem State.setReg_draws (s : State) (i : Reg) (v : Word) : (s.setReg i v).draws = s.draws :=
  s.setSreg_draws s.css i v
@[simp] theorem State.setReg_mem (s : State) (i : Reg) (v : Word) : (s.setReg i v).mem = s.mem :=
  s.setSreg_mem s.css i v

/-! ## storeBytes -/

@[simp] theorem State.storeBytes_regs (s : State) (pa : Nat) (bs : List Byte) : (s.storeBytes pa bs).regs = s.regs := rfl
@[simp] theorem State.storeBytes_hi (s : State) (pa : Nat) (bs : List Byte) : (s.storeBytes pa bs).hi = s.hi := rfl
@[simp] theorem State.storeBytes_lo (s : State) (pa : Nat) (bs : List Byte) : (s.storeBytes pa bs).lo = s.lo := rfl
@[simp] theorem State.storeBytes_hiloUnread (s : State) (pa : Nat) (bs : List Byte) : (s.storeBytes pa bs).hiloUnread = s.hiloUnread := rfl
@[simp] theorem State.storeBytes_flow (s : State) (pa : Nat) (bs : List Byte) : (s.storeBytes pa bs).flow = s.flow := rfl
@[simp] theorem State.storeBytes_llBit (s : State) (pa : Nat) (bs : List Byte) : (s.storeBytes pa bs).llBit = s.llBit := rfl
@[simp] theorem State.storeBytes_llAddr (s : State) (pa : Nat) (bs : List Byte) : (s.storeBytes pa bs).llAddr = s.llAddr := rfl
@[simp] theorem State.storeBytes_cp0 (s : State) (pa : Nat) (bs : List Byte) : (s.storeBytes pa bs).cp0 = s.cp0 := rfl
@[simp] theorem State.storeBytes_waiting (s : State) (pa : Nat) (bs : List Byte) : (s.storeBytes pa bs).waiting = s.waiting := rfl
@[simp] theorem State.storeBytes_port (s : State) (pa : Nat) (bs : List Byte) : (s.storeBytes pa bs).port = s.port := rfl
@[simp] theorem State.storeBytes_stepped (s : State) (pa : Nat) (bs : List Byte) : (s.storeBytes pa bs).stepped = s.stepped := rfl
@[simp] theorem State.storeBytes_platform (s : State) (pa : Nat) (bs : List Byte) : (s.storeBytes pa bs).platform = s.platform := rfl
@[simp] theorem State.storeBytes_inputs (s : State) (pa : Nat) (bs : List Byte) : (s.storeBytes pa bs).inputs = s.inputs := rfl
@[simp] theorem State.storeBytes_draws (s : State) (pa : Nat) (bs : List Byte) : (s.storeBytes pa bs).draws = s.draws := rfl
@[simp] theorem State.storeBytes_mem (s : State) (pa : Nat) (bs : List Byte) :
    (s.storeBytes pa bs).mem = writeBytes s.mem pa bs := rfl
@[simp] theorem State.storeBytes_hazard (s : State) (pa : Nat) (bs : List Byte) :
    (s.storeBytes pa bs).hz.hazard = s.hz.hazard := rfl
@[simp] theorem State.storeBytes_ihazard (s : State) (pa : Nat) (bs : List Byte) :
    (s.storeBytes pa bs).hz.ihazard = s.hz.ihazard := rfl
@[simp] theorem State.storeBytes_hbPending (s : State) (pa : Nat) (bs : List Byte) :
    (s.storeBytes pa bs).hz.hbPending = s.hz.hbPending := rfl

/-! ## advance, advance16, goTo -/

@[simp] theorem State.advance_regs (s : State) : s.advance.regs = s.regs := rfl
@[simp] theorem State.advance_hi (s : State) : s.advance.hi = s.hi := rfl
@[simp] theorem State.advance_lo (s : State) : s.advance.lo = s.lo := rfl
@[simp] theorem State.advance_hiloUnread (s : State) : s.advance.hiloUnread = s.hiloUnread := rfl
@[simp] theorem State.advance_llBit (s : State) : s.advance.llBit = s.llBit := rfl
@[simp] theorem State.advance_llAddr (s : State) : s.advance.llAddr = s.llAddr := rfl
@[simp] theorem State.advance_cp0 (s : State) : s.advance.cp0 = s.cp0 := rfl
@[simp] theorem State.advance_waiting (s : State) : s.advance.waiting = s.waiting := rfl
@[simp] theorem State.advance_port (s : State) : s.advance.port = s.port := rfl
@[simp] theorem State.advance_stepped (s : State) : s.advance.stepped = s.stepped := rfl
@[simp] theorem State.advance_platform (s : State) : s.advance.platform = s.platform := rfl
@[simp] theorem State.advance_inputs (s : State) : s.advance.inputs = s.inputs := rfl
@[simp] theorem State.advance_draws (s : State) : s.advance.draws = s.draws := rfl
@[simp] theorem State.advance_mem (s : State) : s.advance.mem = s.mem := rfl
@[simp] theorem State.advance_hz (s : State) : s.advance.hz = s.afterSlot := rfl
@[simp] theorem State.advance_flow (s : State) : s.advance.flow =
    ⟨s.flow.npc, s.flow.npc + instrStep s.flow.npcIsa, s.flow.npcIsa, false, s.flow.npcIsa⟩ := rfl

@[simp] theorem State.advance16_regs (s : State) (len : Word) : (s.advance16 len).regs = s.regs := rfl
@[simp] theorem State.advance16_hi (s : State) (len : Word) : (s.advance16 len).hi = s.hi := rfl
@[simp] theorem State.advance16_lo (s : State) (len : Word) : (s.advance16 len).lo = s.lo := rfl
@[simp] theorem State.advance16_hiloUnread (s : State) (len : Word) : (s.advance16 len).hiloUnread = s.hiloUnread := rfl
@[simp] theorem State.advance16_llBit (s : State) (len : Word) : (s.advance16 len).llBit = s.llBit := rfl
@[simp] theorem State.advance16_llAddr (s : State) (len : Word) : (s.advance16 len).llAddr = s.llAddr := rfl
@[simp] theorem State.advance16_cp0 (s : State) (len : Word) : (s.advance16 len).cp0 = s.cp0 := rfl
@[simp] theorem State.advance16_waiting (s : State) (len : Word) : (s.advance16 len).waiting = s.waiting := rfl
@[simp] theorem State.advance16_hz (s : State) (len : Word) : (s.advance16 len).hz = s.hz := rfl
@[simp] theorem State.advance16_port (s : State) (len : Word) : (s.advance16 len).port = s.port := rfl
@[simp] theorem State.advance16_stepped (s : State) (len : Word) : (s.advance16 len).stepped = s.stepped := rfl
@[simp] theorem State.advance16_platform (s : State) (len : Word) : (s.advance16 len).platform = s.platform := rfl
@[simp] theorem State.advance16_inputs (s : State) (len : Word) : (s.advance16 len).inputs = s.inputs := rfl
@[simp] theorem State.advance16_draws (s : State) (len : Word) : (s.advance16 len).draws = s.draws := rfl
@[simp] theorem State.advance16_mem (s : State) (len : Word) : (s.advance16 len).mem = s.mem := rfl
@[simp] theorem State.advance16_flow (s : State) (len : Word) : (s.advance16 len).flow =
    ⟨s.flow.pc + len, s.flow.pc + len + 2, s.flow.isaMode, false, s.flow.isaMode⟩ := rfl

@[simp] theorem State.goTo_regs (s : State) (a : Word) (isa : Bool) : (s.goTo a isa).regs = s.regs := rfl
@[simp] theorem State.goTo_hi (s : State) (a : Word) (isa : Bool) : (s.goTo a isa).hi = s.hi := rfl
@[simp] theorem State.goTo_lo (s : State) (a : Word) (isa : Bool) : (s.goTo a isa).lo = s.lo := rfl
@[simp] theorem State.goTo_hiloUnread (s : State) (a : Word) (isa : Bool) : (s.goTo a isa).hiloUnread = s.hiloUnread := rfl
@[simp] theorem State.goTo_llBit (s : State) (a : Word) (isa : Bool) : (s.goTo a isa).llBit = s.llBit := rfl
@[simp] theorem State.goTo_llAddr (s : State) (a : Word) (isa : Bool) : (s.goTo a isa).llAddr = s.llAddr := rfl
@[simp] theorem State.goTo_cp0 (s : State) (a : Word) (isa : Bool) : (s.goTo a isa).cp0 = s.cp0 := rfl
@[simp] theorem State.goTo_waiting (s : State) (a : Word) (isa : Bool) : (s.goTo a isa).waiting = s.waiting := rfl
@[simp] theorem State.goTo_hz (s : State) (a : Word) (isa : Bool) : (s.goTo a isa).hz = s.hz := rfl
@[simp] theorem State.goTo_port (s : State) (a : Word) (isa : Bool) : (s.goTo a isa).port = s.port := rfl
@[simp] theorem State.goTo_stepped (s : State) (a : Word) (isa : Bool) : (s.goTo a isa).stepped = s.stepped := rfl
@[simp] theorem State.goTo_platform (s : State) (a : Word) (isa : Bool) : (s.goTo a isa).platform = s.platform := rfl
@[simp] theorem State.goTo_inputs (s : State) (a : Word) (isa : Bool) : (s.goTo a isa).inputs = s.inputs := rfl
@[simp] theorem State.goTo_draws (s : State) (a : Word) (isa : Bool) : (s.goTo a isa).draws = s.draws := rfl
@[simp] theorem State.goTo_mem (s : State) (a : Word) (isa : Bool) : (s.goTo a isa).mem = s.mem := rfl
@[simp] theorem State.goTo_flow (s : State) (a : Word) (isa : Bool) :
    (s.goTo a isa).flow = ⟨a, a + instrStep isa, isa, false, isa⟩ := rfl

/-! ## Reading registers -/

/-- A register read depends on the register file alone. -/
theorem State.sreg_congr {s t : State} (h : t.regs = s.regs) (set : BitVec 4) (i : Reg) :
    t.sreg set i = s.sreg set i := by simp only [State.sreg, h]

/-- A read in the current set depends on the register file and SRSCtl. -/
theorem State.reg_congr {s t : State} (h : t.regs = s.regs) (hc : t.cp0.srsCtl = s.cp0.srsCtl) (i : Reg) :
    t.reg i = s.reg i := by simp only [State.reg, State.css, hc, State.sreg_congr h]

@[simp] theorem State.sreg_zero (s : State) (set : BitVec 4) : s.sreg set 0#5 = 0#32 := rfl
@[simp] theorem State.reg_zero (s : State) : s.reg 0#5 = 0#32 := rfl
@[simp] theorem State.setSreg_zero (s : State) (set : BitVec 4) (v : Word) : s.setSreg set 0#5 v = s := rfl
@[simp] theorem State.setReg_zero (s : State) (v : Word) : s.setReg 0#5 v = s := rfl

/-- What a register write does to every register of every set. -/
theorem State.sreg_setSreg (s : State) (set set' : BitVec 4) (i j : Reg) (v : Word) :
    (s.setSreg set i v).sreg set' j = if set' = set ∧ j = i ∧ i ≠ 0 then v else s.sreg set' j := by
  by_cases hi : i = 0
  · rw [if_neg (by rintro ⟨_, _, h⟩; exact h hi), hi]; rfl
  by_cases hj : j = 0
  · rw [if_neg (by rintro ⟨_, h, _⟩; exact hi (h ▸ hj)), hj]; rfl
  have hn : ∀ {w : Nat} (a b : BitVec w), a.toNat = b.toNat ↔ a = b := fun a b => BitVec.toNat_inj
  simp only [State.sreg, State.setSreg, hi, hj, if_false, Vector.getElem_set, hn, not_false_eq_true, and_true,
    ne_eq]
  by_cases hs : set' = set
  · subst hs
    by_cases hij : j = i
    · subst hij; simp
    · simp [hij, Ne.symm hij, hn]
  · simp [hs, Ne.symm hs]

/-- The register written reads as the value written, register 0 as 0. -/
theorem State.reg_setReg_self (s : State) (i : Reg) (v : Word) :
    (s.setReg i v).reg i = if i = 0 then 0 else v := by
  have hc : (s.setReg i v).css = s.css := by simp [State.css]
  rw [State.reg, hc, State.setReg, State.sreg_setSreg]
  by_cases hi : i = 0
  · rw [if_neg (by rintro ⟨_, _, h⟩; exact h hi), if_pos hi, hi]; rfl
  · rw [if_pos ⟨rfl, rfl, hi⟩, if_neg hi]

/-- Every other register of every set keeps its value. -/
theorem State.sreg_setReg_other (s : State) (i : Reg) (v : Word) (set : BitVec 4) (j : Reg)
    (h : ¬(set = s.css ∧ j = i)) : (s.setReg i v).sreg set j = s.sreg set j := by
  rw [State.setReg, State.sreg_setSreg, if_neg]
  rintro ⟨hs, hj, _⟩
  exact h ⟨hs, hj⟩

end Sys2Proof.Machine
end

