-- ==== Sys2Proof/Laws/Memory.lean ====
section
/-! SUPPORT. The laws of the canonical memory: what a read after a write gives, and that every memory operation
keeps the canonical form. -/

namespace Sys2Proof.Machine

/-- Below its first possible address a canonical memory lists nothing. -/
theorem readByte_below {m : Memory} : ∀ {lo a : Nat}, Memory.wfFrom lo m = true → a < lo → readByte m a = unlistedByte := by
  induction m with
  | nil => intros; rfl
  | cons c m ih =>
    obtain ⟨k, v⟩ := c
    intro lo a h ha
    simp only [Memory.wfFrom, Bool.and_eq_true, decide_eq_true_eq] at h
    have hk : a ≠ k := by omega
    simp only [readByte, if_neg hk]
    exact ih h.2 (by omega)

/-- The lower bound of a canonical memory may be lowered. -/
theorem Memory.wfFrom_mono {m : Memory} {lo lo' : Nat} (h : Memory.wfFrom lo m = true) (hl : lo' ≤ lo) :
    Memory.wfFrom lo' m = true := by
  cases m with
  | nil => rfl
  | cons c m =>
    obtain ⟨k, v⟩ := c
    simp only [Memory.wfFrom, Bool.and_eq_true, decide_eq_true_eq] at h ⊢
    exact ⟨⟨⟨by omega, h.1.1.2⟩, h.1.2⟩, h.2⟩

/-- A byte written is the byte read; every other byte reads as before. -/
theorem readByte_writeByte {m : Memory} : ∀ {lo : Nat}, Memory.wfFrom lo m = true → ∀ (a b : Nat) (v : Byte),
    readByte (writeByte m a v) b = if b = a then v else readByte m b := by
  induction m with
  | nil =>
    intro lo _ a b v
    by_cases hv : v = unlistedByte <;> by_cases hb : b = a <;> simp [writeByte, readByte, hv, hb]
  | cons c m ih =>
    obtain ⟨k, x⟩ := c
    intro lo h a b v
    simp only [Memory.wfFrom, Bool.and_eq_true, decide_eq_true_eq] at h
    have hm := h.2
    simp only [writeByte]
    split
    · split
      · rename_i hak hv
        by_cases hb : b = a
        · subst hb
          have : b ≠ k := by omega
          simp only [readByte, if_neg this, if_pos, hv]
          exact readByte_below hm (by omega)
        · simp [hb]
      · by_cases hb : b = a <;> simp [readByte, hb]
    · split
      · rename_i h1 h2
        subst h2
        split
        · rename_i hv
          by_cases hb : b = a
          · subst hb; simp only [if_pos, hv]; exact readByte_below hm (by omega)
          · simp [readByte, hb]
        · by_cases hb : b = a <;> simp [readByte, hb]
      · rename_i h1 h2
        by_cases hk : b = k
        · subst hk
          have : b ≠ a := fun e => h2 e.symm
          simp [readByte, this]
        · simp only [readByte, if_neg hk]
          exact ih hm a b v

/-- A byte write keeps the canonical form. -/
theorem writeByte_wfFrom {m : Memory} : ∀ {lo : Nat}, Memory.wfFrom lo m = true → ∀ (a : Nat) (v : Byte), lo ≤ a →
    a < 4294967296 → Memory.wfFrom lo (writeByte m a v) = true := by
  induction m with
  | nil =>
    intro lo _ a v hl ha
    by_cases hv : v = unlistedByte
    · simp [writeByte, hv, Memory.wfFrom]
    · simp [writeByte, hv, Memory.wfFrom, hl, ha]
  | cons c m ih =>
    obtain ⟨k, x⟩ := c
    intro lo h a v hl ha
    have h' := h
    simp only [Memory.wfFrom, Bool.and_eq_true, decide_eq_true_eq, bne_iff_ne, ne_eq] at h
    obtain ⟨⟨⟨h1, h2⟩, h3⟩, h4⟩ := h
    simp only [writeByte]
    split
    · split
      · exact h'
      · rename_i hak hv
        simp only [Memory.wfFrom, Bool.and_eq_true, decide_eq_true_eq, bne_iff_ne, ne_eq]
        exact ⟨⟨⟨hl, ha⟩, hv⟩, ⟨⟨⟨by omega, h2⟩, h3⟩, h4⟩⟩
    · split
      · rename_i hak hk
        subst hk
        split
        · exact Memory.wfFrom_mono h4 (by omega)
        · rename_i hv
          simp only [Memory.wfFrom, Bool.and_eq_true, decide_eq_true_eq, bne_iff_ne, ne_eq]
          exact ⟨⟨⟨hl, ha⟩, hv⟩, h4⟩
      · simp only [Memory.wfFrom, Bool.and_eq_true, decide_eq_true_eq, bne_iff_ne, ne_eq]
        exact ⟨⟨⟨h1, h2⟩, h3⟩, ih h4 a v (by omega) ha⟩

/-- A byte write keeps the canonical form, at any address of the space. -/
theorem writeByte_wf {m : Memory} (h : m.wf = true) (a : Nat) (v : Byte) (ha : a < 4294967296) :
    Memory.wf (writeByte m a v) = true := writeByte_wfFrom h a v (Nat.zero_le a) ha

/-- A run of bytes written keeps the canonical form. -/
theorem writeBytes_wf : ∀ (bs : List Byte) {m : Memory} (a : Nat), m.wf = true → a + bs.length ≤ 4294967296 →
    Memory.wf (writeBytes m a bs) = true
  | [], _, _, h, _ => h
  | b :: bs, m, a, h, ha => by
    simp only [List.length_cons] at ha
    exact writeBytes_wf bs (a + 1) (writeByte_wf h a b (by omega)) (by omega)

/-- What a byte reads as after a run of bytes was written. -/
theorem readByte_writeBytes : ∀ (bs : List Byte) {m : Memory} (a b : Nat), m.wf = true →
    a + bs.length ≤ 4294967296 →
    readByte (writeBytes m a bs) b = if h : a ≤ b ∧ b < a + bs.length then bs[b - a]'(by omega) else readByte m b
  | [], m, a, b, _, _ => by
    have : ¬(a ≤ b ∧ b < a + ([] : List Byte).length) := by simp
    rw [dif_neg this]; rfl
  | x :: bs, m, a, b, h, ha => by
    simp only [List.length_cons] at ha
    have ih := readByte_writeBytes bs (a + 1) b (writeByte_wf h a x (by omega)) (by omega)
    rw [writeBytes, ih, readByte_writeByte h]
    by_cases hb : b = a
    · subst hb
      have h1 : ¬(b + 1 ≤ b ∧ b < b + 1 + bs.length) := by omega
      have h2 : b ≤ b ∧ b < b + (x :: bs).length := by simp
      rw [dif_neg h1, dif_pos h2]
      simp
    · by_cases h1 : a + 1 ≤ b ∧ b < a + 1 + bs.length
      · have h2 : a ≤ b ∧ b < a + (x :: bs).length := by simp only [List.length_cons]; omega
        rw [dif_pos h1, dif_pos h2]
        have : b - a = (b - (a + 1)) + 1 := by omega
        simp [this]
      · have h2 : ¬(a ≤ b ∧ b < a + (x :: bs).length) := by simp only [List.length_cons]; omega
        rw [dif_neg h1, dif_neg h2, if_neg hb]

/-- Bytes outside a run that was written read as before. -/
theorem readByte_writeBytes_outside {bs : List Byte} {m : Memory} {a b : Nat} (h : m.wf = true)
    (ha : a + bs.length ≤ 4294967296) (hb : b < a ∨ a + bs.length ≤ b) :
    readByte (writeBytes m a bs) b = readByte m b := by
  rw [readByte_writeBytes bs a b h ha, dif_neg]; omega

/-- The i-th of n bytes read. -/
theorem readBytes_length (m : Memory) : ∀ (n a : Nat), (readBytes m a n).length = n
  | 0, _ => rfl
  | n + 1, a => by simp [readBytes, readBytes_length m n (a + 1)]

/-- A run of bytes read depends on those bytes alone. -/
theorem readBytes_congr {m m' : Memory} : ∀ (n : Nat) {a : Nat},
    (∀ b, a ≤ b → b < a + n → readByte m' b = readByte m b) → readBytes m' a n = readBytes m a n
  | 0, _, _ => rfl
  | n + 1, a, h => by
    simp only [readBytes]
    rw [h a (Nat.le_refl a) (by omega), readBytes_congr n fun b h1 h2 => h b (by omega) (by omega)]

/-- The run written is the run read. -/
theorem readBytes_writeBytes : ∀ (bs : List Byte) {m : Memory} (a : Nat), m.wf = true →
    a + bs.length ≤ 4294967296 → readBytes (writeBytes m a bs) a bs.length = bs
  | [], _, _, _, _ => rfl
  | x :: bs, m, a, h, ha => by
    simp only [List.length_cons] at ha
    have hw := writeByte_wf h a x (by omega)
    simp only [writeBytes, List.length_cons, readBytes]
    rw [readBytes_writeBytes bs (a + 1) hw (by omega),
      readByte_writeBytes_outside hw (by omega) (Or.inl (by omega)), readByte_writeByte h, if_pos rfl]

/-- The memory after reset is canonical. -/
theorem reset_canonical : State.reset.mem.wf = true := rfl

/-- Storing bytes at a place of the address space keeps memory canonical. -/
theorem State.storeBytes_wf {s : State} (h : s.mem.wf = true) {pa : Nat} {bs : List Byte}
    (ha : pa + bs.length ≤ 4294967296) : (s.storeBytes pa bs).mem.wf = true := writeBytes_wf bs pa h ha

end Sys2Proof.Machine
end

