-- ==== Sys2Proof/Laws/Ops.lean ====
section
/-! SUPPORT. One lemma for each shared operation that says what it can do: the hazard views, the places of memory
accesses, the ways an instruction ends, and the entries of exceptions. -/

namespace Sys2Proof.Machine

/-! ## Bits -/

/-- The word with bit i alone set. -/
theorem getLsbD_one_shiftLeft (i j : Nat) (hj : j < 32) : (1#32 <<< i).getLsbD j = decide (j = i) := by
  by_cases h : j = i
  · subst h; simp [hj]
  · simp only [BitVec.getLsbD_shiftLeft, BitVec.getLsbD_one, h, decide_false, hj, decide_true, Bool.true_and]
    by_cases h2 : j < i
    · simp [h2]
    · have : j - i ≠ 0 := by omega
      simp [this]

/-- A bit of a word with one bit set. -/
theorem bit_setBit (w : Word) (i j : Nat) (b : Bool) (hj : j < 32) :
    bit (setBit w i b) j = if j = i then b else bit w j := by
  unfold bit setBit
  cases b <;>
    simp only [Bool.false_eq_true, if_false, if_true, BitVec.getLsbD_or, BitVec.getLsbD_and, BitVec.getLsbD_not,
      getLsbD_one_shiftLeft i j hj, hj, decide_true, Bool.true_and] <;>
    by_cases h : j = i <;> simp [h]

/-- A word has no bit above 31. -/
theorem bit_above (w : Word) (i : Nat) (h : 32 ≤ i) : bit w i = false := BitVec.getLsbD_of_ge w i h

/-! ## Hazard views (70_reset_and_hazards.md R405, R408) -/

/-- A consumer sees the stored word before the first unbarriered write, or the present one. -/
theorem State.viewedStored_cases {α : Type} [DecidableEq α] (s : State) (r : CpReg) (f : Word → α) :
    s.viewedStored r f = f (s.stored r) ∨ s.viewedStored r f = f (s.earlierStored r) := by
  unfold State.viewedStored
  split
  · exact .inl rfl
  · split
    · exact .inr rfl
    · exact .inl rfl

/-- With nothing waiting for a barrier there is one word to see. -/
theorem State.viewedStored_settled {α : Type} [DecidableEq α] {s : State} (h : s.hz.hazard = []) (r : CpReg)
    (f : Word → α) : s.viewedStored r f = f (s.stored r) := by
  simp [State.viewedStored, State.earlierStored, h]

/-- The same of the word that the register shows. -/
theorem State.viewed_cases {α : Type} [DecidableEq α] (s : State) (r : CpReg) (f : Word → α) :
    s.viewed r f = f (s.cpReg r) ∨ s.viewed r f = f (s.earlierReg r) := s.viewedStored_cases r _

/-- With nothing waiting for a barrier there is one value to see. -/
theorem State.viewed_settled {α : Type} [DecidableEq α] {s : State} (h : s.hz.hazard = []) (r : CpReg)
    (f : Word → α) : s.viewed r f = f (s.cpReg r) := State.viewedStored_settled h r _

/-- The same for a fetch. -/
theorem State.viewedByFetch_settled {α : Type} [DecidableEq α] {s : State} (h : s.hz.ihazard = none)
    (f : Word → α) : s.viewedByFetch f = f s.cp0.status := by
  simp [State.viewedByFetch, h]

/-- The word a register shows is the stored word, but for Cause. -/
theorem State.cpReg_of_ne_cause (s : State) {r : CpReg} (h : r ≠ .cause) : s.cpReg r = s.stored r := by
  simp [State.cpReg, State.shown, h]

@[simp] theorem State.cpReg_status (s : State) : s.cpReg .status = s.cp0.status := rfl
@[simp] theorem State.cpReg_srsCtl (s : State) : s.cpReg .srsCtl = s.cp0.srsCtl := rfl
@[simp] theorem State.cpReg_ebase (s : State) : s.cpReg .ebase = s.cp0.ebase := rfl
@[simp] theorem State.cpReg_epc (s : State) : s.cpReg .epc = s.cp0.epc := rfl
@[simp] theorem State.cpReg_errorEpc (s : State) : s.cpReg .errorEpc = s.cp0.errorEpc := rfl
@[simp] theorem State.cpReg_depc (s : State) : s.cpReg .depc = s.cp0.depc := rfl
@[simp] theorem State.cpReg_intCtl (s : State) : s.cpReg .intCtl = s.cp0.intCtl := rfl
@[simp] theorem State.cpReg_srsMap (s : State) : s.cpReg .srsMap = s.cp0.srsMap := rfl
@[simp] theorem State.cpReg_hwrena (s : State) : s.cpReg .hwrena = s.cp0.hwrena := rfl
@[simp] theorem State.cpReg_cause (s : State) : s.cpReg .cause = s.causeWord s.cp0.cause := rfl

/-! ## Places of memory accesses (20_memory.md R61 to R64, R77) -/

/-- The fixed mapping keeps an address's place in its word. -/
theorem fixedMapping_mod (erl : Bool) (va : Word) : (fixedMapping erl va).toNat % 4 = va.toNat % 4 := by
  have h := va.isLt
  have e1 : (0x40000000 : Word).toNat = 1073741824 := by decide
  have e2 : (0x80000000 : Word).toNat = 2147483648 := by decide
  have e3 : (0xA0000000 : Word).toNat = 2684354560 := by decide
  unfold fixedMapping
  split
  · split
    · rfl
    · rw [BitVec.toNat_add, e1]; omega
  · split
    · rw [BitVec.toNat_sub, e2]; omega
    · split
      · rw [BitVec.toNat_sub, e3]; omega
      · rfl

/-- What a translation that is permitted gives: the fixed mapping and the segment's cacheability. -/
theorem State.translateUnder_some {s : State} {va st : Word} {tr : Translation}
    (h : s.translateUnder va st = some tr) :
    tr = ⟨fixedMapping (statusERL st) va, s.cacheability (statusERL st) va⟩ ∧
      (s.userUnder st && bit va 31) = false := by
  unfold State.translateUnder at h
  split at h
  · cases h
  · rename_i hn; cases h; exact ⟨rfl, by simpa using hn⟩

/-- A translated address keeps its place in its word. -/
theorem State.translate_mod {s : State} {kind : Access} {va : Word} {tr : Translation}
    (h : s.translate kind va = some tr) : tr.pa.toNat % 4 = va.toNat % 4 := by
  have key : ∀ st, s.translateUnder va st = some tr → tr.pa.toNat % 4 = va.toNat % 4 := by
    intro st h
    rw [(State.translateUnder_some h).1]
    exact fixedMapping_mod _ _
  unfold State.translate at h
  split at h
  · unfold State.viewedByFetch at h
    split at h
    · exact key _ h
    · split at h
      · exact key _ h
      · exact key _ h
  · rcases s.viewed_cases .status (s.translateUnder va) with e | e <;> rw [e] at h <;> exact key _ h

/-- A place that was granted: it is memory at the translated address, which a store finds writable. -/
theorem State.place_ok {s : State} {kind : Access} {va : Word} {n pa : Nat} (h : s.place kind va n = .ok pa) :
    ∃ tr, s.translate kind va = some tr ∧ tr.pa.toNat = pa ∧
      (placeKind s.platform.memMap pa n = some .memory ∨
        kind ≠ .store ∧ placeKind s.platform.memMap pa n = some .readOnly) := by
  unfold State.place at h
  split at h
  · cases h
  · split at h
    · cases h
    · rename_i tr htr
      split at h
      · cases h
      · cases h
      · rename_i hk
        split at h
        · cases h
        · rename_i hs; cases h; exact ⟨tr, htr, rfl, .inr ⟨hs, hk⟩⟩
      · rename_i hk
        cases h
        exact ⟨tr, htr, rfl, .inl hk⟩

/-- A place that was refused because of the mode raises the Address Error of the access. -/
theorem State.place_raise {s : State} {kind : Access} {va : Word} {n : Nat} {e : Exc}
    (h : s.place kind va n = .error (.raise e)) : e = addressError kind va := by
  unfold State.place at h
  split at h
  · cases h
  · split at h
    · cases h; rfl
    · split at h
      · cases h
      · cases h
      · split at h <;> cases h
      · cases h

/-- The place of an access that lies in one aligned word lies in the address space. -/
theorem State.place_bound {s : State} {kind : Access} {va : Word} {n pa : Nat} (h : s.place kind va n = .ok pa)
    (hw : va.toNat % 4 + n ≤ 4) : pa + n ≤ 4294967296 := by
  obtain ⟨p, hp, rfl, _⟩ := State.place_ok h
  have h1 := State.translate_mod hp
  have h2 := p.pa.isLt
  omega

/-- An aligned access of 1, 2 or 4 bytes lies in one aligned word. -/
theorem aligned_in_word {va : Word} {n : Nat} (h : aligned va n = true) (hn : n = 1 ∨ n = 2 ∨ n = 4) :
    va.toNat % 4 + n ≤ 4 := by
  simp only [aligned, beq_iff_eq] at h
  rcases hn with rfl | rfl | rfl <;> omega

/-- What the place of an access depends on. -/
theorem State.place_congr {s t : State} (hc : t.cp0 = s.cp0) (hh : t.hz.hazard = s.hz.hazard)
    (hi : t.hz.ihazard = s.hz.ihazard) (hp : t.port = s.port) (hm : t.platform = s.platform)
    (hd : t.draws = s.draws) (hl : t.llAddr = s.llAddr) (kind : Access) (va : Word) (n : Nat) :
    t.place kind va n = s.place kind va n := by
  rcases s with ⟨_, _, _, _, _, _, _, _, _, ⟨_, _, _, _⟩, _, _, _, _, _, _⟩
  rcases t with ⟨_, _, _, _, _, _, _, _, _, ⟨_, _, _, _⟩, _, _, _, _, _, _⟩
  simp only at hc hh hi hp hm hd hl
  subst hc hh hi hp hm hd hl
  rfl

/-- A load that completes: it was aligned, the place was granted, the value is what the bytes there hold. -/
theorem State.memRead_ok {s : State} {va : Word} {n : Nat} {v : Word} (h : s.memRead va n = .ok v) :
    aligned va n = true ∧ ∃ pa, s.place .load va n = .ok pa ∧ v = s.loadBytes pa n := by
  unfold State.memRead at h
  split at h
  · rename_i ha
    refine ⟨ha, ?_⟩
    cases hp : s.place .load va n with
    | error e => rw [hp] at h; cases h
    | ok pa => rw [hp] at h; cases h; exact ⟨pa, rfl, rfl⟩
  · cases h

/-- A load whose place is granted completes. -/
theorem State.memRead_of_place {s : State} {va : Word} {n pa : Nat} (ha : aligned va n = true)
    (hp : s.place .load va n = .ok pa) : s.memRead va n = .ok (s.loadBytes pa n) := by
  simp [State.memRead, ha, hp, Except.map]

/-- A store that completes: it was aligned, the place was granted, the bytes are those of the value. -/
theorem State.memWrite_ok {s t : State} {va : Word} {n : Nat} {v : Word} (h : s.memWrite va n v = .ok t) :
    aligned va n = true ∧ ∃ pa, s.place .store va n = .ok pa ∧
      t = s.storeBytes pa (inByteOrder s.bigEndian (splitBytes v n)) := by
  unfold State.memWrite at h
  split at h
  · rename_i ha
    refine ⟨ha, ?_⟩
    cases hp : s.place .store va n with
    | error e => rw [hp] at h; cases h
    | ok pa => rw [hp] at h; cases h; exact ⟨pa, rfl, rfl⟩
  · cases h

/-- A store whose place is granted completes. -/
theorem State.memWrite_of_place {s : State} {va : Word} {n pa : Nat} {v : Word} (ha : aligned va n = true)
    (hp : s.place .store va n = .ok pa) :
    s.memWrite va n v = .ok (s.storeBytes pa (inByteOrder s.bigEndian (splitBytes v n))) := by
  simp [State.memWrite, ha, hp, Except.map]

/-- The place of an unaligned access, granted. -/
theorem State.placeUnaligned_ok {s : State} {kind : Access} {ea start : Word} {n pa : Nat}
    (h : s.placeUnaligned kind ea start n = .ok pa) : s.place kind start n = .ok pa := by
  unfold State.placeUnaligned at h
  split at h
  · cases h
  · exact h

theorem splitBytes_length (v : Word) : ∀ n, (splitBytes v n).length = n
  | 0 => rfl
  | n + 1 => by simp [splitBytes, splitBytes_length (v >>> 8) n]

theorem inByteOrder_length (b : Bool) (bs : List Byte) : (inByteOrder b bs).length = bs.length := by
  unfold inByteOrder; split <;> simp

/-- The byte order is its own inverse. -/
theorem inByteOrder_twice (b : Bool) (bs : List Byte) : inByteOrder b (inByteOrder b bs) = bs := by
  unfold inByteOrder; split <;> simp

/-- Bytes stored are the value loaded. -/
theorem State.loadBytes_storeBytes {s : State} (h : s.mem.wf = true) {pa : Nat} (bs : List Byte)
    (ha : pa + bs.length ≤ 4294967296) :
    (s.storeBytes pa (inByteOrder s.bigEndian bs)).loadBytes pa bs.length = joinBytes bs := by
  have hl := inByteOrder_length s.bigEndian bs
  have hr := readBytes_writeBytes (inByteOrder s.bigEndian bs) pa h (by omega)
  rw [hl] at hr
  have hb : (s.storeBytes pa (inByteOrder s.bigEndian bs)).bigEndian = s.bigEndian := rfl
  simp only [State.loadBytes, State.storeBytes_mem, hr, hb, inByteOrder_twice]

/-! ## How an instruction ends -/

theorem SameRest.refl (s : State) : SameRest s s :=
  ⟨⟨rfl, rfl, rfl⟩, ⟨rfl, rfl⟩, ⟨rfl, rfl, rfl, rfl, rfl, rfl, rfl⟩, fun _ => rfl⟩

/-- `Next` with nothing written. -/
theorem retire_passes (s : State) : Passes (retire s) s :=
  ⟨s.advance, rfl, fun _ _ => rfl, SameRest.refl s, ⟨rfl, rfl, rfl, rfl, rfl⟩, rfl⟩

/-- A register result. -/
theorem writeReg_writes (rd : Reg) (v : Word) (s : State) : Writes (writeReg rd v s) s rd v := by
  refine ⟨(s.setReg rd v).advance, rfl, ?_, ?_, ?_, ?_, ?_⟩
  · exact (State.reg_congr (s := s.setReg rd v) (t := (s.setReg rd v).advance) rfl rfl rd).trans
      (State.reg_setReg_self s rd v)
  · intro set r h
    exact (State.sreg_congr (s := s.setReg rd v) (t := (s.setReg rd v).advance) rfl set r).trans
      (State.sreg_setReg_other s rd v set r h)
  · refine ⟨⟨?_, ?_, ?_⟩, ⟨?_, ?_⟩, ⟨?_, ?_, ?_, ?_, ?_, ?_, ?_⟩, fun a => ?_⟩ <;> simp
  · refine ⟨?_, ?_, ?_, ?_, ?_⟩ <;> simp
  · simp [SameHazards, State.afterSlot]

/-- A trap that does not trap. -/
theorem trapWhen_false (s : State) : trapWhen false s = retire s := rfl

/-- A trap that traps. -/
theorem trapWhen_true (s : State) : trapWhen true s = takeException .trap s := rfl

/-- An operation outside a delay slot. -/
theorem outsideSlot_of_not {s : State} (h : s.flow.inDs = false) (k : Out) : outsideSlot s k = k := by
  simp [outsideSlot, h]

theorem outsideSlot_of_slot {s : State} (h : s.flow.inDs = true) (k : Out) :
    outsideSlot s k = .fault .controlInDelaySlot := by simp [outsideSlot, h]

/-- What answers a next state was not in a delay slot. -/
theorem outsideSlot_next {s t : State} {k : Out} (h : outsideSlot s k = .next t) :
    s.flow.inDs = false ∧ k = .next t := by
  unfold outsideSlot at h
  split at h
  · cases h
  · rename_i hn; exact ⟨by simpa using hn, h⟩

/-- A coprocessor 0 instruction either has access or raises Coprocessor Unusable. -/
theorem withCop0_cases (s : State) (k : Out) :
    (s.cop0Usable = true ∧ withCop0 s k = k) ∨
      (s.cop0Usable = false ∧ withCop0 s k = takeException (.coprocessorUnusable 0) s) := by
  unfold withCop0
  cases h : s.cop0Usable <;> simp

/-- An operation that may not complete, when the outcome is a next state. -/
theorem attempt_next {α : Type} {x : Except Stop α} {s t : State} {k : α → Out} (h : attempt x s k = .next t) :
    (∃ a, x = .ok a ∧ k a = .next t) ∨ (∃ e, x = .error (.raise e) ∧ takeException e s = .next t) := by
  unfold attempt at h
  split at h
  · rename_i stop
    unfold Stop.take at h
    split at h
    · exact .inr ⟨_, rfl, h⟩
    · cases h
    · cases h
  · exact .inl ⟨_, rfl, h⟩

/-- A read of HI or LO that goes on found a value. -/
theorem withValue_next {α : Type} {x : Option α} {t : State} {k : α → Out} (h : withValue x k = .next t) :
    ∃ v, x = some v ∧ k v = .next t := by
  cases x with
  | none => cases h
  | some v => exact ⟨v, rfl, h⟩

/-- The accumulator is there when both registers hold a value. -/
theorem State.acc_some {s : State} {h l : Word} (hh : s.hi = some h) (hl : s.lo = some l) : s.acc = some (h ++ l) := by
  simp [State.acc, hh, hl]

theorem State.acc_none {s : State} (h : s.hi = none ∨ s.lo = none) : s.acc = none := by
  unfold State.acc
  split
  · rename_i hh hl; rcases h with h | h <;> simp_all
  · rfl

/-! ## Taking an exception -/

/-- An exception that answers a next state: the re-entry of Debug Mode, the entry to it, or an ordinary entry whose
register set exists. -/
theorem takeException_next {e : Exc} {s t : State} (h : takeException e s = .next t) :
    (s.inDebug = true ∧ t = reenterDebug e s) ∨
      (s.inDebug = false ∧ e = .debugBreakpoint ∧ t = enterDebug .softwareBreakpoint s) ∨
      (s.inDebug = false ∧ e ≠ .debugBreakpoint ∧ (s.switchesSet = true → s.newSet e ≤ s.hss) ∧
        t = { (s.goTo (s.vectorAddress e) false) with
              cp0 := s.entryCp0 e, hz := Hazards.none, waiting := false }) := by
  unfold takeException at h
  split at h
  · rename_i hd; cases h; exact .inl ⟨hd, rfl⟩
  · rename_i hd
    have hd : s.inDebug = false := by simpa using hd
    split at h
    · rename_i he; cases h; exact .inr (.inl ⟨hd, he, rfl⟩)
    · rename_i he
      unfold enterOrdinary at h
      split at h
      · cases h
      · rename_i hs
        cases h
        refine .inr (.inr ⟨hd, he, fun hw => ?_, rfl⟩)
        simpa [hw] using hs

/-- What no exception entry changes. -/
theorem takeException_frame {e : Exc} {s t : State} (h : takeException e s = .next t) :
    SameRegisters s t ∧ SameHiLo s t ∧ SameLink s t ∧ SamePlatform s t ∧ t.mem = s.mem ∧ t.hz = Hazards.none ∧
      t.flow.inDs = false ∧ t.flow.isaMode = false ∧ t.waiting = false := by
  rcases takeException_next h with ⟨_, rfl⟩ | ⟨_, _, rfl⟩ | ⟨_, _, _, rfl⟩ <;>
    exact ⟨fun _ _ => rfl, ⟨rfl, rfl, rfl⟩, ⟨rfl, rfl⟩, ⟨rfl, rfl, rfl, rfl, rfl⟩, rfl, rfl, rfl, rfl, rfl⟩

end Sys2Proof.Machine
end

