-- ==== Sys2Proof/Laws/Rulings.lean ====
section
/-! SUPPORT. What the step under the spec's decisions can answer, and that its runs are runs of the machine. -/

namespace Sys2Proof.Machine

/-- The step under the decisions answers the name of a decision that the step breaks, or what `step` answers. -/
theorem ruledStep_cases (s : State) :
    (∃ r, s.stepRuling = some r ∧ ruledStep s = .error r) ∨ (s.stepRuling = none ∧ ruledStep s = .ok (step s)) := by
  unfold ruledStep
  split
  · rename_i r hr; exact .inl ⟨r, hr, rfl⟩
  · rename_i hr; exact .inr ⟨hr, rfl⟩

/-- An outcome under the decisions is the outcome of the machine, and breaks none of them. -/
theorem ruledStep_ok {s : State} {o : Out} (h : ruledStep s = .ok o) : step s = o ∧ s.stepRuling = none := by
  rcases ruledStep_cases s with ⟨r, _, hr⟩ | ⟨hn, hr⟩
  · rw [hr] at h; cases h
  · rw [hr] at h; cases h; exact ⟨rfl, hn⟩

/-- A run under the decisions is a run that does not stop. -/
theorem RuledRun.safe : ∀ {n : Nat} {s : State}, RuledRun n s → SafeRun n s
  | 0, _, _ => trivial
  | _ + 1, _, ⟨t, ht, hr⟩ => ⟨t, (ruledStep_ok ht).1, RuledRun.safe hr⟩

/-- Under the decisions no step begins or ends in Debug Mode (D17). -/
theorem ruledStep_outside_debug {s t : State} (h : ruledStep s = .ok (.next t)) :
    s.inDebug = false ∧ t.inDebug = false := by
  obtain ⟨ht, hr⟩ := ruledStep_ok h
  unfold State.stepRuling at hr
  rw [ht] at hr
  split at hr
  · cases hr
  · rename_i hd
    split at hr
    · cases hr
    · split at hr
      · cases hr
      · rename_i hl; exact ⟨by simpa using hd, by simpa [leadsToDebug] using hl⟩

end Sys2Proof.Machine
end

