-- ==== Sys2Proof/Tests/Slice0.lean ====
section
/-! SUPPORT. Tests of the definitions, one step each, with the words and values of the examples of spec/ (each rule's
"Example", 95_test_vectors.md), and for every statement with hypotheses states that meet them. -/

namespace Sys2Proof.Tests

open Sys2Proof.Machine

/-! ## Well-formed and predictable: each check refuses a term -/

/-- Each ill-formed term belongs to a row of higher priority (30_encoding.md R100). -/
theorem test_wellFormed_refuses :
    [Instr.sll 0 0 0, .sll 0 0 1, .sll 0 0 3, .beq 0 0 7, .bgezal 0 7, .cop0 0x18, .cop0 0x1F,
      .cop0 0x20, .cop0 0x60].all (fun i => !i.wellFormed) = true := by decide

theorem test_wellFormed_admits :
    [Instr.sll 0 0 2, .sll 1 0 0, .sll 0 1 1, .beq 0 1 7, .bgezal 31 7, .cop0 0x01, .cop0 0x03, .jalr 4 4].all
      Instr.wellFormed = true := by decide

/-- Each term breaks an operand restriction (70_reset_and_hazards.md R410). -/
theorem test_predictable_refuses :
    [Instr.clo 3 1 4, .clz 3 1 4, .ext 2 1 31 1, .ins 2 1 4 8, .bgezal 31 0, .bltzal 31 0, .bgezall 31 0,
      .bltzall 31 0, .jalr 5 5, .jalrHb 5 5].all (fun i => !i.predictable) = true := by decide

theorem test_predictable_admits :
    [Instr.clo 3 1 3, .clz 3 1 3, .ext 2 1 31 0, .ext 2 1 0 31, .ins 2 1 8 8, .bgezal 30 0, .jalr 5 4].all
      Instr.predictable = true := by decide

/-! ## Decoding: a word of the spec's examples, or written from the encoding, for every constructor -/

/-- The word decodes to the instruction, and the instruction encodes to the word. -/
def reads (p : Word × Instr) : Bool := decide (decode32 p.1 = .ok p.2) && decide (encode p.2 = .word p.1)

/-- The same for a halfword. -/
def readsHalf (p : Half × Instr) : Bool := decide (decode16 p.1 0 = .ok p.2) && decide (encode p.2 = .half p.1)

/-- 40_arithmetic_logic.md, the examples of R120 to R137. -/
theorem test_decode_arithmetic :
    [(0x00221820, Instr.add 3 1 2), (0x2022FFFF, .addi 2 1 0xFFFF), (0x24228000, .addiu 2 1 0x8000),
      (0x00221821, .addu 3 1 2), (0x00221822, .sub 3 1 2), (0x00221823, .subu 3 1 2), (0x00221824, .and 3 1 2),
      (0x3022FF00, .andi 2 1 0xFF00), (0x00221825, .or 3 1 2), (0x34228000, .ori 2 1 0x8000),
      (0x00221826, .xor 3 1 2), (0x3822FFFF, .xori 2 1 0xFFFF), (0x00221827, .nor 3 1 2), (0x3C021234, .lui 2 0x1234),
      (0x0022182A, .slt 3 1 2), (0x2822FFFF, .slti 2 1 0xFFFF), (0x2C22FFFF, .sltiu 2 1 0xFFFF),
      (0x0022182B, .sltu 3 1 2)].all reads = true := by decide

/-- The examples of R138 to R146: CLO and CLZ carry the rt field, EXT and INS the size less 1 and the last bit. -/
theorem test_decode_bits :
    [(0x70231821, Instr.clo 3 1 3), (0x70231820, .clz 3 1 3), (0x70241820, .clz 3 1 4), (0x7C021C20, .seb 3 2),
      (0x7C021E20, .seh 3 2), (0x7C0218A0, .wsbh 3 2), (0x7C223900, .ext 2 1 7 4), (0x7C225904, .ins 2 1 11 4),
      (0x0022180B, .movn 3 1 2), (0x0022180A, .movz 3 1 2)].all reads = true := by decide

/-- 41_shift_nop.md, the examples of R160 to R170. -/
theorem test_decode_shift :
    [(0x00021900, Instr.sll 3 2 4), (0x00221804, .sllv 3 2 1), (0x00021902, .srl 3 2 4), (0x00221806, .srlv 3 2 1),
      (0x00021903, .sra 3 2 4), (0x00221807, .srav 3 2 1), (0x00221A02, .rotr 3 2 8), (0x00221846, .rotrv 3 2 1),
      (0x00000000, .nop), (0x00000040, .ssnop), (0x000000C0, .ehb), (0x00000080, .sll 0 0 2)].all reads = true := by
  decide

/-- 42_multiply_divide.md, the examples of R180 to R192. -/
theorem test_decode_multiply :
    [(0x00220018, Instr.mult 1 2), (0x00220019, .multu 1 2), (0x70221802, .mul 3 1 2), (0x70220000, .madd 1 2),
      (0x70220001, .maddu 1 2), (0x70220004, .msub 1 2), (0x70220005, .msubu 1 2), (0x0022001A, .div 1 2),
      (0x0022001B, .divu 1 2), (0x00001810, .mfhi 3), (0x00001812, .mflo 3), (0x00200011, .mthi 1),
      (0x00200013, .mtlo 1)].all reads = true := by decide

/-- 43_branch_jump.md, the examples and the rows of 95_test_vectors.md V43. -/
theorem test_decode_branch :
    [(0x10000003, Instr.b 3), (0x04110003, .bal 3), (0x10220003, .beq 1 2 3), (0x1422FFFE, .bne 1 2 0xFFFE),
      (0x04210003, .bgez 1 3), (0x1C200003, .bgtz 1 3), (0x18200003, .blez 1 3), (0x04200003, .bltz 1 3),
      (0x04310003, .bgezal 1 3), (0x04300003, .bltzal 1 3), (0x50220003, .beql 1 2 3), (0x54220003, .bnel 1 2 3),
      (0x04230003, .bgezl 1 3), (0x5C200003, .bgtzl 1 3), (0x58200003, .blezl 1 3), (0x04220003, .bltzl 1 3),
      (0x04330003, .bgezall 1 3), (0x04320003, .bltzall 1 3)].all reads = true := by decide

theorem test_decode_jump :
    [(0x0BFFFFFF, Instr.j 0x3FFFFFF), (0x0C000800, .jal 0x800), (0x03E00008, .jr 31), (0x03E00408, .jrHb 31),
      (0x0320F809, .jalr 31 25), (0x0320FC09, .jalrHb 31 25)].all reads = true := by decide

/-- 44_load_store.md, the examples of R241 to R255. -/
theorem test_decode_memory :
    [(0x8022FFFC, Instr.lb 2 0xFFFC 1), (0x90220003, .lbu 2 3 1), (0x84220002, .lh 2 2 1), (0x94220002, .lhu 2 2 1),
      (0x8C220008, .lw 2 8 1), (0x88220003, .lwl 2 3 1), (0x98220000, .lwr 2 0 1), (0xA0220001, .sb 2 1 1),
      (0xA4220002, .sh 2 2 1), (0xAC220008, .sw 2 8 1), (0xA8220003, .swl 2 3 1), (0xB8220000, .swr 2 0 1),
      (0xC0220000, .ll 2 0 1), (0xE0220000, .sc 2 0 1), (0x0000000F, .sync 0), (0x0000040F, .sync 16)].all
      reads = true := by decide

/-- 45_trap_system.md: the examples, and codes written into their fields. -/
theorem test_decode_trap :
    [(0x0000000C, Instr.syscall 0), (0x03FFFFCC, .syscall 0xFFFFF), (0x0000014D, .break_ 5), (0x7000007F, .sdbbp 1),
      (0x00220034, .teq 1 2 0), (0x00220076, .tne 1 2 1), (0x00220030, .tge 1 2 0), (0x00220031, .tgeu 1 2 0),
      (0x00220032, .tlt 1 2 0), (0x00220033, .tltu 1 2 0), (0x042C0005, .teqi 1 5), (0x042E0005, .tnei 1 5),
      (0x0428FFFF, .tgei 1 0xFFFF), (0x0429FFFF, .tgeiu 1 0xFFFF), (0x042AFFFF, .tlti 1 0xFFFF),
      (0x042BFFFF, .tltiu 1 0xFFFF), (0x42000020, .wait 0), (0x42000060, .wait 1)].all reads = true := by decide

/-- 46_cop0_privileged.md, the examples of R301 to R310. -/
theorem test_decode_cop0 :
    [(0x42000001, Instr.cop0 1), (0x42000003, .cop0 3), (0x40026000, .mfc0 2 12 0), (0x40027801, .mfc0 2 15 1),
      (0x40826000, .mtc0 2 12 0), (0x41626000, .di 2), (0x41606020, .ei 0), (0x42000018, .eret), (0x4200001F, .deret),
      (0x7C02103B, .rdhwr 2 2), (0x41421800, .rdpgpr 3 2), (0x41C21800, .wrpgpr 3 2)].all reads = true := by decide

/-- 47_mips16e_only.md R331 to R338. -/
theorem test_decode_mips16 :
    [(0x0A03, Instr.addiupc 2 (.short 3)), (0xB203, .lwpc 2 (.short 3)), (0xEAC0, .jalrc 2), (0xEA80, .jrc (.rx 2)),
      (0xE8A0, .jrc .ra), (0x64F4, .save true true true 4), (0x6474, .restore true true true 4), (0xEA11, .zeb 2),
      (0xEA31, .zeh 2)].all readsHalf = true := by decide

/-- The EXTEND form of a PC-relative instruction: the immediate's bits 10:5, 15:11 and 4:0 in that order (R331). -/
theorem test_decode_extended :
    decode16 0xF7FF 0x0A1F = .ok (.addiupc 2 (.extended 0xFFFF)) ∧
      decode16 0xF001 0xB200 = .ok (.lwpc 2 (.extended 0x0800)) := by decide

/-- What is no instruction of the table is rejected by its case of R102 and R330. -/
theorem test_decode_rejects :
    decode32 0xFFFFFFFF = .error .reserved ∧ decode32 0x4C000000 = .error .notListed ∧
      decode32 0x00200860 = .error .mustBeZero ∧ decode32 0x00200000 = .error .mustBeZero ∧
      decode16 0x4C00 0 = .error .mips16eUnlisted ∧ decode16 0xF000 0x64F4 = .error .mips16eExtended := by decide

/-- The bits of a table row as the host numbers them: the first halfword is the low one. -/
theorem test_decodeTableWord :
    decodeTableWord 32 0x00221820 = some (.add 3 1 2) ∧ decodeTableWord 16 0x64F4 = some (.save true true true 4) ∧
      decodeTableWord 32 0x00200860 = none := by decide

/-! ## Small states -/

/-- Kernel mode, no level bit, at 0x80001000: the start state of 95_test_vectors.md. -/
def plain : State :=
  { State.reset with flow := ⟨0x80001000, 0x80001004, false, false, false⟩, cp0 := { Cp0.reset with status := 0 } }

/-- `plain` with the Status given. -/
def under (status : Word) : State := { plain with cp0 := { plain.cp0 with status := status } }

/-- User mode. -/
def user : State := under 0x10

/-- Debug Mode. -/
def debugging : State := { plain with cp0 := { plain.cp0 with debug := 0x42000000 } }

/-- In the delay slot of a branch to 0x80002000. -/
def inSlot : State := { plain with flow := ⟨0x80001004, 0x80002000, false, true, false⟩ }

/-- MIPS16e code at 0x80001000. -/
def compact : State := { plain with flow := ⟨0x80001000, 0x80001002, true, false, true⟩ }

/-- A state with registers of the current set loaded. -/
def State.load (s : State) (l : List (Reg × Word)) : State := l.foldl (fun s p => s.setReg p.1 p.2) s

/-- The twelve bytes of 95_test_vectors.md V44 at 0x80002000, which register 1 holds. -/
def withBytes : State :=
  { plain.setReg 1 0x80002000 with
    mem := writeBytes [] 0x2000 [0x00, 0x11, 0x22, 0x33, 0x44, 0x55, 0x66, 0x77, 0x80, 0xFF, 0x7F, 0x01] }

/-- The same in big-endian memory. -/
def bigEndianBytes : State := { withBytes with cp0 := { withBytes.cp0 with config := 0x80008580 } }

/-- The instruction of a word, executed. -/
def run (w : Word) (s : State) : Out :=
  match decode32 w with
  | .ok i => exec i s
  | .error _ => .refused .unlistedInstruction

/-- The outcome is a next state with a property. -/
def next (o : Out) (p : State → Bool) : Bool :=
  match o with
  | .next t => p t
  | _ => false

/-- The outcome is a given fault. -/
def faults (o : Out) (f : Fault) : Bool :=
  match o with
  | .fault g => g == f
  | _ => false

/-- The outcome is entry to 0x80000180 with a code and BadVAddr. -/
def raises (code : BitVec 5) (badVAddr : Word) (o : Out) : Bool :=
  next o fun t =>
    field t.cp0.cause 2 5 == code && t.cp0.badVAddr == badVAddr && t.flow.pc == 0x80000180 && statusEXL t.cp0.status

/-! ## Results: the rows of 95_test_vectors.md -/

/-- A word, the registers before, a register and its value after. -/
def writes (c : Word × List (Reg × Word) × Reg × Word) : Bool :=
  next (run c.1 (State.load plain c.2.1)) fun t => t.reg c.2.2.1 == c.2.2.2

/-- V40. -/
theorem test_arithmetic :
    ([(0x00221820, [(1, 0x7FFFFFFF), (2, 0x80000000)], 3, 0xFFFFFFFF), (0x20228000, [(1, 0)], 2, 0xFFFF8000),
      (0x24220001, [(1, 0x7FFFFFFF)], 2, 0x80000000), (0x2422FFFF, [(1, 0)], 2, 0xFFFFFFFF),
      (0x00221821, [(1, 0x7FFFFFFF), (2, 1)], 3, 0x80000000), (0x00220021, [(1, 5), (2, 6)], 0, 0),
      (0x00221822, [(1, 0xFFFFFFFF), (2, 0x80000000)], 3, 0x7FFFFFFF),
      (0x00221823, [(1, 0x80000000), (2, 1)], 3, 0x7FFFFFFF), (0x30228000, [(1, 0xFFFFFFFF)], 2, 0x8000),
      (0x3402FFFF, [], 2, 0xFFFF), (0x38228000, [(1, 0xFFFFFFFF)], 2, 0xFFFF7FFF), (0x00001827, [], 3, 0xFFFFFFFF),
      (0x3C028000, [(2, 0x1234)], 2, 0x80000000), (0x0022182A, [(1, 0x80000000), (2, 0x7FFFFFFF)], 3, 1),
      (0x0022182B, [(1, 0x80000000), (2, 0x7FFFFFFF)], 3, 0), (0x28228000, [(1, 0xFFFF0000)], 2, 1),
      (0x2C228000, [(1, 0x8000)], 2, 1), (0x2C220001, [(1, 0)], 2, 1), (0x70231820, [(1, 0)], 3, 0x20),
      (0x70231820, [(1, 0x80000000)], 3, 0), (0x70231821, [(1, 0xFFFFFFFF)], 3, 0x20),
      (0x70231821, [(1, 0x7FFFFFFF)], 3, 0), (0x7C021C20, [(2, 0x17F)], 3, 0x7F),
      (0x7C021E20, [(2, 0x17FFF)], 3, 0x7FFF), (0x7C0218A0, [(2, 0xAABBCCDD)], 3, 0xBBAADDCC),
      (0x7C22F800, [(1, 0xDEADBEEF)], 2, 0xDEADBEEF), (0x7C2207C0, [(1, 0x80000000)], 2, 1),
      (0x7C22FFC4, [(1, 1), (2, 0)], 2, 0x80000000), (0x7C22F804, [(1, 0x12345678), (2, 0xFFFFFFFF)], 2, 0x12345678),
      (0x0022180B, [(1, 7), (2, 0), (3, 9)], 3, 9), (0x0022180A, [(1, 7), (2, 1), (3, 9)], 3, 9),
      (0x00221824, [(1, 0xFF00FF00), (2, 0xFF00FF0)], 3, 0xF000F00),
      (0x00221825, [(1, 0xFF00FF00), (2, 0xFF00FF0)], 3, 0xFFF0FFF0),
      (0x00221826, [(1, 0xFF00FF00), (2, 0xFF00FF0)], 3, 0xF0F0F0F0),
      (0x00221827, [(1, 0xFF00FF00), (2, 0xFF00FF0)], 3, 0xF000F),
      (0x0022180B, [(1, 7), (2, 0x80000000), (3, 9)], 3, 7), (0x0022180A, [(1, 7), (2, 0), (3, 9)], 3, 7),
      (0x7C021C20, [(2, 0x12345680)], 3, 0xFFFFFF80), (0x7C021E20, [(2, 0x12348000)], 3, 0xFFFF8000)] :
      List (Word × List (Reg × Word) × Reg × Word)).all writes = true := by decide

/-- V40: overflow raises the exception, register 0 as destination included. -/
theorem test_overflow :
    ([(0x00221820, [(1, 0x7FFFFFFF), (2, 1)]), (0x00221820, [(1, 0x80000000), (2, 0xFFFFFFFF)]),
      (0x00220020, [(1, 0x7FFFFFFF), (2, 1)]), (0x20220001, [(1, 0x7FFFFFFF)]),
      (0x00221822, [(1, 0x80000000), (2, 1)]), (0x00221822, [(2, 0x80000000)])] :
      List (Word × List (Reg × Word))).all
      (fun c => raises 12 0 (run c.1 (State.load plain c.2))) = true := by decide

/-- V41. -/
theorem test_shift :
    ([(0x00021FC0, [(2, 3)], 3, 0x80000000), (0x00021800, [(2, 0xDEADBEEF)], 3, 0xDEADBEEF),
      (0x00021FC2, [(2, 0x80000000)], 3, 1), (0x00021FC3, [(2, 0x80000000)], 3, 0xFFFFFFFF),
      (0x00021FC3, [(2, 0x7FFFFFFF)], 3, 0), (0x00221804, [(1, 0x20), (2, 0xDEADBEEF)], 3, 0xDEADBEEF),
      (0x00221806, [(1, 0xFFFFFFFF), (2, 0x80000000)], 3, 1),
      (0x00221807, [(1, 0x3F), (2, 0x80000000)], 3, 0xFFFFFFFF), (0x00221802, [(2, 0x12345678)], 3, 0x12345678),
      (0x00221FC2, [(2, 0x80000001)], 3, 3), (0x00221846, [(1, 0x20), (2, 0x12345678)], 3, 0x12345678),
      (0x00221846, [(1, 0x10), (2, 0x12345678)], 3, 0x56781234)] :
      List (Word × List (Reg × Word) × Reg × Word)).all writes = true := by decide

/-- V42: a word, the registers, HI and LO before, HI and LO after. -/
theorem test_multiply :
    ([(0x00220018, [(1, 0x80000000), (2, 0x80000000)], 0, 0, 0x40000000, 0),
      (0x00220018, [(1, 0x80000000), (2, 0xFFFFFFFF)], 0, 0, 0, 0x80000000),
      (0x00220019, [(1, 0xFFFFFFFF), (2, 0xFFFFFFFF)], 0, 0, 0xFFFFFFFE, 1),
      (0x70220000, [(1, 0xFFFFFFFF), (2, 1)], 0, 0, 0xFFFFFFFF, 0xFFFFFFFF),
      (0x70220000, [(1, 0x7FFFFFFF), (2, 0x7FFFFFFF)], 0x7FFFFFFF, 0xFFFFFFFF, 0xBFFFFFFF, 0),
      (0x70220001, [(1, 0xFFFFFFFF), (2, 0xFFFFFFFF)], 0xFFFFFFFF, 0xFFFFFFFF, 0xFFFFFFFE, 0),
      (0x70220004, [(1, 0xFFFFFFFF), (2, 1)], 0, 0, 0, 1),
      (0x70220005, [(1, 1), (2, 1)], 0, 0, 0xFFFFFFFF, 0xFFFFFFFF),
      (0x0022001A, [(1, 7), (2, 0xFFFFFFFE)], 0, 0, 1, 0xFFFFFFFD),
      (0x0022001A, [(1, 0xFFFFFFF9), (2, 0xFFFFFFFE)], 0, 0, 0xFFFFFFFF, 3),
      (0x0022001B, [(1, 0x80000000), (2, 0xFFFFFFFF)], 0, 0, 0x80000000, 0), (0x00200013, [(1, 5)], 1, 2, 1, 5)] :
      List (Word × List (Reg × Word) × Word × Word × Word × Word)).all
      (fun (w, regs, h, l, h', l') =>
        next (run w ((State.load plain regs).setHiLo (some h) (some l) false)) fun t =>
          t.hi == some h' && t.lo == some l') = true := by decide

/-- V42: MUL, and MTHI after an unread result, take values away; MFHI delivers HI. -/
theorem test_hilo :
    next (run 0x70221802 (State.load plain [(1, 0xFFFFFFFF), (2, 0xFFFFFFFF)]))
        (fun t => t.reg 3 == 1 && t.hi == none && t.lo == none) = true ∧
      next (run 0x00200011 ((plain.setReg 1 5).setHiLo (some 1) (some 2) true))
        (fun t => t.hi == some 5 && t.lo == none) = true ∧
      next (run 0x00001810 (plain.setHiLo (some 7) none true)) (fun t => t.reg 3 == 7 && !t.hiloUnread) = true ∧
      next (run 0x00001812 (plain.setHiLo none (some 8) true)) (fun t => t.reg 3 == 8 && !t.hiloUnread) = true := by
  decide

/-- V43: a word, the registers before, the link register and its value, then pc, npc and the delay slot. -/
theorem test_branch :
    ([(0x10220003, [(1, 7), (2, 7)], (0, 0), 0x80001004, 0x80001010, true),
      (0x10220003, [(1, 7), (2, 8)], (0, 0), 0x80001004, 0x80001008, true),
      (0x14228000, [(1, 1)], (0, 0), 0x80001004, 0x7FFE1004, true),
      (0x14227FFF, [(1, 1)], (0, 0), 0x80001004, 0x80021000, true),
      (0x04210003, [(1, 0x80000000)], (0, 0), 0x80001004, 0x80001008, true),
      (0x1C200003, [(1, 1)], (0, 0), 0x80001004, 0x80001010, true),
      (0x18200003, [(1, 0)], (0, 0), 0x80001004, 0x80001010, true),
      (0x04200003, [(1, 0)], (0, 0), 0x80001004, 0x80001008, true),
      (0x04110003, [], (31, 0x80001008), 0x80001004, 0x80001010, true),
      (0x04310003, [(1, 0xFFFFFFFF)], (31, 0x80001008), 0x80001004, 0x80001008, true),
      (0x04300003, [(1, 0)], (31, 0x80001008), 0x80001004, 0x80001008, true),
      (0x50220003, [(1, 7), (2, 7)], (0, 0), 0x80001004, 0x80001010, true),
      (0x50220003, [(1, 7), (2, 8)], (0, 0), 0x80001008, 0x8000100C, false),
      (0x54220003, [(1, 7), (2, 8)], (0, 0), 0x80001004, 0x80001010, true),
      (0x04330003, [(1, 0xFFFFFFFF)], (31, 0x80001008), 0x80001008, 0x8000100C, false),
      (0x04320003, [(1, 0xFFFFFFFF)], (31, 0x80001008), 0x80001004, 0x80001010, true),
      (0x08000010, [], (0, 0), 0x80001004, 0x80000040, true), (0x0BFFFFFF, [], (0, 0), 0x80001004, 0x8FFFFFFC, true),
      (0x0C000800, [], (31, 0x80001008), 0x80001004, 0x80002000, true),
      (0x00200008, [(1, 0x80002000)], (0, 0), 0x80001004, 0x80002000, true),
      (0x00200008, [(1, 0x80002002)], (0, 0), 0x80001004, 0x80002002, true),
      (0x00201809, [(1, 0x80002000)], (3, 0x80001008), 0x80001004, 0x80002000, true),
      (0x00200009, [(1, 0x80002000)], (0, 0), 0x80001004, 0x80002000, true),
      (0x00200408, [(1, 0x80002000)], (0, 0), 0x80001004, 0x80002000, true),
      (0x0020FC09, [(1, 0x80002000)], (31, 0x80001008), 0x80001004, 0x80002000, true),
      (0x10000003, [], (0, 0), 0x80001004, 0x80001010, true),
      (0x04230003, [(1, 0)], (0, 0), 0x80001004, 0x80001010, true),
      (0x04230003, [(1, 0xFFFFFFFF)], (0, 0), 0x80001008, 0x8000100C, false),
      (0x5C200003, [(1, 0)], (0, 0), 0x80001008, 0x8000100C, false),
      (0x58200003, [(1, 0)], (0, 0), 0x80001004, 0x80001010, true),
      (0x04220003, [(1, 0x80000000)], (0, 0), 0x80001004, 0x80001010, true),
      (0x04220003, [(1, 0)], (0, 0), 0x80001008, 0x8000100C, false)] :
      List (Word × List (Reg × Word) × (Reg × Word) × Word × Word × Bool)).all
      (fun (w, regs, link, pc, npc, slot) =>
        next (run w (State.load plain regs)) fun t =>
          t.reg link.1 == link.2 && t.flow.pc == pc && t.flow.npc == npc && t.flow.inDs == slot) = true := by
  decide

/-- V43: bit 0 of the register is the ISA mode after the delay slot. -/
theorem test_jump_to_mips16 :
    next (run 0x00200008 (plain.setReg 1 0x80002001)) (fun t => t.flow == ⟨0x80001004, 0x80002000, true, true, false⟩) =
      true := by decide

/-- The stops of V40 and V43. -/
theorem test_stops :
    faults (run 0x70241820 plain) .countFieldsDiffer = true ∧ faults (run 0x7C22F900 plain) .bitFieldOutOfRange = true ∧
      faults (run 0x7C222204 plain) .bitFieldOutOfRange = true ∧
      faults (run 0x07F10003 plain) .linkRegisterAsSource = true ∧
      faults (run 0x00200809 plain) .jumpAndLinkSameRegister = true ∧
      faults (run 0x10000003 inSlot) .controlInDelaySlot = true := by decide

/-- V42: MFHI, MFLO and MADD after MUL, which leaves HI and LO without a value; MFLO of the register that MTHI leaves
without one. -/
theorem test_no_value :
    let mul := plain.setHiLo none none false
    faults (run 0x00001010 mul) .noValue = true ∧ faults (run 0x00001012 mul) .noValue = true ∧
      faults (run 0x70220000 mul) .noValue = true ∧
      faults (run 0x00001812 (plain.setHiLo (some 5) none false)) .noValue = true := by decide

/-- V44: the loads; a word, register 2 before and after. -/
theorem test_load :
    ([(0x80220008, 0, 0xFFFFFF80), (0x90220008, 0, 0x80), (0x84220008, 0, 0xFFFFFF80), (0x94220008, 0, 0xFF80),
      (0x8422000A, 0, 0x17F), (0x8C220004, 0, 0x77665544), (0x88220000, 0xAAAAAAAA, 0x00AAAAAA),
      (0x88220002, 0xAAAAAAAA, 0x221100AA), (0x98220001, 0xAAAAAAAA, 0xAA332211),
      (0x98220003, 0xAAAAAAAA, 0xAAAAAA33), (0xC0220004, 0, 0x77665544)] : List (Word × Word × Word)).all
      (fun (w, old, new) => next (run w (withBytes.setReg 2 old)) fun t => t.reg 2 == new) = true := by decide

/-- The big-endian rows of 44_load_store.md R246 and R247. -/
theorem test_load_big_endian :
    ([(0x8C220004, 0, 0x44556677), (0x88220001, 0xAAAAAAAA, 0x112233AA), (0x98220001, 0xAAAAAAAA, 0xAAAA0011)] :
      List (Word × Word × Word)).all
      (fun (w, old, new) => next (run w (bigEndianBytes.setReg 2 old)) fun t => t.reg 2 == new) = true := by decide

/-- V44: the stores; a word, register 2, the four bytes at 0x80002000 after. -/
theorem test_store :
    ([(0xA0220001, 0x123456AB, [0x00, 0xAB, 0x22, 0x33]), (0xA4220002, 0x1234BEEF, [0x00, 0x11, 0xEF, 0xBE]),
      (0xAC220000, 0x12345678, [0x78, 0x56, 0x34, 0x12]), (0xA8220001, 0xDDCCBBAA, [0xCC, 0xDD, 0x22, 0x33]),
      (0xA8220003, 0xDDCCBBAA, [0xAA, 0xBB, 0xCC, 0xDD]), (0xB8220001, 0xDDCCBBAA, [0x00, 0xAA, 0xBB, 0xCC]),
      (0xB8220003, 0xDDCCBBAA, [0x00, 0x11, 0x22, 0xAA])] : List (Word × Word × List Byte)).all
      (fun (w, v, bytes) => next (run w (withBytes.setReg 2 v)) fun t => readBytes t.mem 0x2000 4 == bytes) = true := by
  decide

/-- V44: the Address Errors. -/
theorem test_misaligned :
    raises 4 0x80002001 (run 0x84220001 withBytes) = true ∧ raises 4 0x80002002 (run 0x8C220002 withBytes) = true ∧
      raises 5 0x80002003 (run 0xA4220003 withBytes) = true ∧ raises 5 0x80002001 (run 0xAC220001 withBytes) = true ∧
      raises 4 0x80002000 (run 0x8C220000 (user.setReg 1 0x80002000)) = true := by decide

/-- V44: LL and SC. -/
theorem test_linked :
    next (run 0xC0220004 withBytes) (fun t => t.llBit && t.llAddr == 0x80002004) = true ∧
      next (run 0xE0220004 ((withBytes.setReg 2 0x01020304).setLink true 0x80002004))
        (fun t => t.reg 2 == 1 && readBytes t.mem 0x2004 4 == [4, 3, 2, 1]) = true ∧
      next (run 0xE0220004 ((withBytes.setReg 2 0x01020304).setLink false 0x80002004))
        (fun t => t.reg 2 == 0 && readByte t.mem 0x2004 == 0x44) = true ∧
      faults (run 0xE0220000 (withBytes.setLink true 0x80002004)) .scAddressMismatch = true := by decide

/-- V45: SYSCALL, BREAK and the traps; a word, the registers, whether it traps. -/
theorem test_trap :
    raises 8 0 (run 0x0000000C plain) = true ∧ raises 9 0 (run 0x0000000D plain) = true ∧
      ([(0x00220034, 0, 0, true), (0x00220034, 0, 1, false), (0x00220030, 0x80000000, 0x7FFFFFFF, false),
        (0x00220031, 0x80000000, 0x7FFFFFFF, true), (0x00220032, 0x80000000, 0x7FFFFFFF, true),
        (0x00220033, 0x80000000, 0x7FFFFFFF, false), (0x00210036, 5, 0, false), (0x042C8000, 0xFFFF8000, 0, true),
        (0x04298000, 0x8000, 0, false), (0x042B8000, 0x8000, 0, true), (0x04280000, 0xFFFFFFFF, 0, false),
        (0x042A0000, 0xFFFFFFFF, 0, true), (0x042E0000, 0, 0, false)] : List (Word × Word × Word × Bool)).all
        (fun (w, a, b, traps) =>
          let o := run w (State.load plain [(1, a), (2, b)])
          raises 13 0 o == traps && next o fun t => (t.flow.pc == 0x80001004) == !traps) = true := by decide

/-- V45: entry with BEV = 1, with EXL = 1, from user mode, and from a delay slot. -/
theorem test_entry :
    next (run 0x0000000C (under 0x00400000)) (fun t => t.flow.pc == 0xBFC00380 && t.cp0.status == 0x00400002) = true ∧
      next (run 0x0000000C { under 2 with cp0 := { (under 2).cp0 with epc := 0x12345678 } })
        (fun t => t.cp0.epc == 0x12345678 && t.flow.pc == 0x80000180) = true ∧
      next (run 0x0000000C (under 0x11)) (fun t => t.cp0.status == 0x13 && t.cp0.epc == 0x80001000) = true ∧
      next (run 0x0000000C inSlot) (fun t => t.cp0.epc == 0x80001000 && t.cp0.cause == 0x80000020) = true := by decide

/-- V45: SDBBP enters Debug Mode; WAIT waits, and is not for user mode. -/
theorem test_debug_and_wait :
    next (run 0x7000003F plain)
        (fun t => t.cp0.depc == 0x80001000 && t.inDebug && bit t.cp0.debug 1 && t.flow.pc == 0xBFC00480) = true ∧
      next (run 0x42000020 plain) (fun t => t.waiting && t.flow.pc == 0x80001004) = true ∧
      raises 11 0 (run 0x42000020 user) = true := by decide

/-- V46: MFC0 and MTC0. -/
theorem test_cop0_moves :
    next (run 0x40026000 (under 0xFF01)) (fun t => t.reg 2 == 0xFF01) = true ∧
      next (run 0x40026000 (under 0x10000010)) (fun t => t.reg 2 == 0x10000010) = true ∧
      raises 11 0 (run 0x40026000 user) = true ∧
      next (run 0x40826000 ((under 0x00100000).setReg 2 0xFFFFFFFF)) (fun t => t.cp0.status == 0x1850FF17) = true ∧
      next (run 0x40826800 (plain.setReg 2 0xFFFFFFFF)) (fun t => t.cp0.cause == 0x08800300) = true ∧
      next (run 0x40827801 ((under 0x00400000).setReg 2 0xFFFFFFFF)) (fun t => t.cp0.ebase == 0xBFFFF000) = true := by
  decide

/-- MTC0 to Debug in Debug Mode: the writable bits, and IBusEP, which can only be cleared (R36; log 40). -/
theorem test_debug_mask :
    let ones := debugging.setReg 2 0xFFFFFFFF
    let r303 := { ones with platform := { Platform.default with busErrorBits := false } }
    next (run 0x4082B800 ones) (fun t => t.cp0.debug == 0x52300100) = true ∧
      next (run 0x4082B800 r303) (fun t => t.cp0.debug == 0x52100100) = true ∧
      next (run 0x4080B800 { plain with cp0 := { plain.cp0 with debug := 0x43200000 } })
        (fun t => t.cp0.debug == 0x40000000) = true := by decide

/-- V46: DI and EI. -/
theorem test_interrupt_enable :
    next (run 0x41626000 (under 0xFF01)) (fun t => t.reg 2 == 0xFF01 && t.cp0.status == 0xFF00) = true ∧
      next (run 0x41626020 (under 0xFF00)) (fun t => t.reg 2 == 0xFF00 && t.cp0.status == 0xFF01) = true := by decide

/-- V46: ERET by EXL and by ERL; DERET outside Debug Mode, and inside it. -/
theorem test_return :
    next (run 0x42000018 { (under 0x13).setLink true 0 with cp0 := { (under 0x13).cp0 with epc := 0x00401004 } })
        (fun t => t.cp0.status == 0x11 && t.flow.pc == 0x00401004 && !t.llBit) = true ∧
      next (run 0x42000018 { under 6 with cp0 := { (under 6).cp0 with errorEpc := 0x80003000 } })
        (fun t => t.cp0.status == 2 && t.flow.pc == 0x80003000) = true ∧
      raises 10 0 (run 0x4200001F plain) = true ∧
      next (run 0x4200001F { debugging with cp0 := { debugging.cp0 with depc := 0x80004001 } })
        (fun t => !t.inDebug && t.flow == ⟨0x80004000, 0x80004002, true, false, true⟩) = true := by decide

/-- V46: RDHWR, the shadow sets (set 1 current, set 0 previous), the class row COP0. -/
theorem test_cop0_others :
    next
        (run 0x7C02083B
          { user with
            cp0 := { user.cp0 with hwrena := 2 }, platform := { Platform.default with synciStep := 16 } })
        (fun t => t.reg 2 == 16) = true ∧
      raises 10 0 (run 0x7C02103B user) = true ∧ raises 10 0 (run 0x7C02203B plain) = true ∧
      next (run 0x41421800 ({ plain with cp0 := { plain.cp0 with srsCtl := 0x04000001 } }.setSreg 0 2 0xBEEF))
        (fun t => t.sreg 1 3 == 0xBEEF) = true ∧
      next (run 0x41C21800 ({ plain with cp0 := { plain.cp0 with srsCtl := 0x04000001 } }.setSreg 1 2 0x1234))
        (fun t => t.sreg 0 3 == 0x1234) = true ∧
      raises 10 0 (run 0x42000003 plain) = true ∧ raises 11 0 (run 0x42000003 user) = true := by decide

/-- V47: the MIPS16e rows. -/
theorem test_mips16 :
    next (exec (.addiupc 2 (.short 4)) { compact with flow := ⟨0x9D001002, 0x9D001004, true, false, true⟩ })
        (fun t => t.reg 2 == 0x9D001010 && t.flow.pc == 0x9D001004) = true ∧
      next (exec (.lwpc 2 (.short 4)) { compact with mem := writeBytes [] 0x1010 [0x78, 0x56, 0x34, 0x12] })
        (fun t => t.reg 2 == 0x12345678) = true ∧
      next (exec (.jalrc 2) (compact.setReg 2 0x9D002001))
        (fun t => t.reg 31 == 0x80001003 && t.flow == ⟨0x9D002000, 0x9D002002, true, false, true⟩) = true ∧
      next (exec (.jrc .ra) (compact.setReg 31 0x80002000))
        (fun t => t.flow == ⟨0x80002000, 0x80002004, false, false, false⟩) = true ∧
      next (exec (.jrc (.rx 0)) (compact.setReg 16 0x80002001)) (fun t => t.flow.pc == 0x80002000) = true ∧
      next (exec (.zeb 2) (compact.setReg 2 0xFFFFFF80)) (fun t => t.reg 2 == 0x80) = true ∧
      next (exec (.zeh 2) (compact.setReg 2 0xFFFF8000)) (fun t => t.reg 2 == 0x8000) = true := by decide

/-- A MIPS16e state with a stack pointer and the three registers of a full frame. -/
def withStack : State := State.load compact [(29, 0xA0001000), (31, 0x11), (17, 0x22), (16, 0x33)]

/-- V47: SAVE and RESTORE. -/
theorem test_frames :
    next (exec (.save true true true 4) withStack)
        (fun t => t.reg 29 == 0xA0000FE0 && readByte t.mem 0xFFC == 0x11 && readByte t.mem 0xFF8 == 0x22 &&
          readByte t.mem 0xFF4 == 0x33) = true ∧
      next (exec (.restore true true true 4)
          { compact.setReg 29 0xA0000FE0 with mem := [(0xFF4, 0x33), (0xFF8, 0x22), (0xFFC, 0x11)] })
        (fun t => t.reg 29 == 0xA0001000 && t.reg 31 == 0x11 && t.reg 17 == 0x22 && t.reg 16 == 0x33) = true := by
  decide

/-! ## Hazards and events -/

/-- EHB empties the record that MTC0 leaves (70_reset_and_hazards.md R407); NOP does not. -/
theorem test_barrier :
    next (run 0x40826000 (under 1)) (fun t => t.hz.hazard == [(.status, 1)] &&
        next (exec .nop t) (fun u => u.hz.hazard == [(.status, 1)]) && next (exec .ehb t) (fun u => u.hz.hazard == [])) =
      true := by decide

/-- A word placed at the next fetch is what the next step runs, in both ISA modes. -/
theorem test_step_runs_word :
    next (step ((State.reset.setReg 1 5).withFetchWord 32 0x2022FFFF))
        (fun t => t.reg 2 == 4 && t.flow.pc == 0xBFC00004) = true ∧
      next (step ((State.reset.setReg 2 0xFFFFFF80).withFetchWord 16 0xEA11)) (fun t => t.reg 2 == 0x80) = true ∧
      next (step (State.reset.withFetchWord 32 0x0C000800)) (fun t => t.flow.inDs && t.reg 31 == 0xBFC00008) = true := by
  decide

/-- What the surroundings present at one step. -/
def presenting (lines : BitVec 6) (event : Option ExternalEvent) : StepInput :=
  ⟨lines, none, 0, true, false, false, event⟩

/-- Line 0 is requested, enabled and unmasked: an interrupt is due at the next step. -/
def requested : State := { under 0x0401 with inputs := [presenting 1 none] }

/-- An enabled line interrupts; a masked one does not; a WAIT ends by it (60_exceptions.md R354, R285). -/
theorem test_interrupt :
    raises 0 0 (step requested) = true ∧
      next (step { requested with inputs := [presenting 2 none] }) (fun t => t.flow.pc == 0x80001004) = true ∧
      raises 0 0 (step { requested with waiting := true }) = true ∧
      next (step { requested with waiting := true, inputs := [] }) (fun t => t.waiting) = true := by decide

/-- Neither VInt nor VEIC: the special vector although IntCtl.VS is not 0 (60_exceptions.md R353). -/
theorem test_interrupt_compatibility :
    next (step
        { under 0x0401 with
          cp0 := { (under 0x0401).cp0 with cause := 0x00800000, intCtl := 0x20, config3 := 0 }
          inputs := [presenting 1 none] })
      (fun t => t.flow.pc == 0x80000200) = true := by decide

/-- The decision a step breaks, where it breaks one. -/
def breaks (s : State) : Option Ruling :=
  match ruledStep s with
  | .error r => some r
  | .ok _ => none

/-- The decisions D12, D11 and D17: MFC0 and MTC0 of register 5, JRC, a MIPS16e fetch from a place that does not exist,
SDBBP (95_test_vectors.md V46; R26, R368). -/
theorem test_rulings :
    breaks (plain.withFetchWord 32 0x00001010) = none ∧
      breaks (plain.withFetchWord 32 0x40022800) = some .absentRegister ∧
      breaks (plain.withFetchWord 32 0x40822800) = some .absentRegister ∧
      breaks (plain.withFetchWord 16 0xE8A0) = some .mips16eMode ∧
      breaks { compact with platform := { Platform.default with memMap := [] } } = some .mips16eMode ∧
      breaks (plain.withFetchWord 32 0x7000003F) = some .enteredDebugMode ∧ breaks debugging = some .enteredDebugMode := by
  decide

/-- D19 (70_reset_and_hazards.md R408): ERET after an unbarriered MTC0 to EPC, MFC0 of it, SYSCALL after one to EBase; an
EHB in between leaves none. -/
theorem test_ruling_hazards :
    let written (r : CpReg) := plain.setHz ⟨[(r, 0)], none, false, []⟩
    breaks ((written .epc).withFetchWord 32 0x42000018) = some .hazardNotCleared ∧
      breaks ((written .epc).withFetchWord 32 0x40027000) = some .hazardNotCleared ∧
      breaks ((written .ebase).withFetchWord 32 0x0000000C) = some .hazardNotCleared ∧
      breaks (plain.withFetchWord 32 0x42000018) = none ∧ breaks ((written .ebase).withFetchWord 32 0x000000C0) = none := by
  decide

/-- The same of DI with rt = 2 and with rt = 0 while Status is in hazard (R304), and of RDHWR $2, $3 in a window between
user and kernel mode, where HWREna allows it and where it does not (R308, R408). -/
theorem test_ruling_status :
    let window := (under 0x10).setHz ⟨[(.status, 0)], some 0, false, []⟩
    let allowed := { window with cp0 := { window.cp0 with hwrena := 8 } }
    let settled := plain.setHz ⟨[(.status, 1)], none, false, []⟩
    instructionRuling (.di 2) settled = some .hazardNotCleared ∧ instructionRuling (.ei 2) settled = some .hazardNotCleared ∧
      instructionRuling (.di 0) settled = none ∧ instructionRuling (.rdhwr 2 3) window = some .hazardNotCleared ∧
      window.accessUnsettled = true ∧ instructionRuling (.rdhwr 2 3) allowed = none := by decide

/-- The last row of V51: in a window between user and kernel mode SW to kseg0 stops, SW to kuseg and a misaligned SW do
not; the fetch from kseg0 there is not settled, so that SDBBP is a hazard, and from kuseg it enters Debug Mode (R408). -/
theorem test_ruling_translation :
    let window := ((under 0).setReg 1 0x80002000).setHz ⟨[(.status, 0x10)], some 0x10, false, []⟩
    let inKuseg := { window with flow := ⟨0x00001000, 0x00001004, false, false, false⟩ }
    let sdbbp (s : State) (pa : Nat) := { s with mem := writeBytes [] pa [0x3F, 0x00, 0x00, 0x70] }
    instructionRuling (.sw 2 0 1) window = some .hazardNotCleared ∧ instructionRuling (.sw 2 0 3) window = none ∧
      instructionRuling (.sw 2 2 1) window = none ∧ window.fetchUnsettled = true ∧ inKuseg.fetchUnsettled = false ∧
      breaks (sdbbp window 0x1000) = some .hazardNotCleared ∧
      breaks (sdbbp inKuseg 0x40001000) = some .enteredDebugMode := by decide

/-- D8 (20_memory.md R74): a store to the word that is running, and one beside it. -/
theorem test_ruling_text :
    keepsText 1 ((plain.setReg 1 0x80001000).withFetchWord 32 0xAC220000) = false ∧
      keepsText 1 ((plain.setReg 1 0x80001004).withFetchWord 32 0xAC220000) = true := by decide

/-- A place that admits reads only: a load goes on, a store stops (20_memory.md R64, R77). -/
theorem test_read_only :
    let s := { withBytes with platform := { Platform.default with memMap := [⟨0, 4294967296, .readOnly⟩] } }
    s.place .load 0x80002000 4 = .ok 0x2000 ∧ s.place .store 0x80002000 4 = .error (.fault .notAdmitted) := by decide

/-- The caching of the segments: kseg0 by Config.K0, kseg1 and, while ERL is 1, kuseg uncached (20_memory.md R61). -/
theorem test_caching :
    let s := { plain with cp0 := { plain.cp0 with config := 0x80000583 } }
    (s.translate .load 0x80001000).map Translation.caching = some (.code 3) ∧
      (s.translate .load 0xA0001000).map Translation.caching = some .uncached ∧
      (State.reset.translate .load 0x00001000).map Translation.caching = some .uncached ∧
      (s.translate .load 0x00001000).map Translation.caching = some .mapped := by decide

/-- SAVE that stops at its second store: the first stays done, the stack pointer is unchanged (R335). -/
theorem test_save_stopped :
    next (exec (.save true true true 4) (State.load { user with flow := compact.flow } [(29, 4), (31, 0x11)]))
      (fun t => t.cp0.badVAddr == 0xFFFFFFFC && t.reg 29 == 4 && readByte t.mem 0x40000000 == 0x11) = true := by decide

/-- The reset-class events (R359, R400). -/
theorem test_reset_events :
    next (step { plain with inputs := [presenting 0 (some .nmi)] })
        (fun t => t.cp0.status == 0x00480004 && t.cp0.errorEpc == 0x80001000 && t.flow.pc == 0xBFC00000) = true ∧
      next (step { plain with inputs := [presenting 0 (some .softReset)] }) (fun t => t.cp0.status == 0x00500004) =
        true ∧
      next (step { plain with inputs := [presenting 0 (some .reset)] }) (fun t => t.cp0.status == 0x00400004) = true := by
  decide

/-! ## Witnesses: for each statement with hypotheses, states and operands that meet them -/

theorem plain_ready : plain.ready := ⟨⟨rfl, rfl⟩, by decide, by decide⟩

theorem user_ready : user.ready := ⟨⟨rfl, rfl⟩, by decide, by decide⟩

theorem inSlot_ready : inSlot.ready := ⟨⟨rfl, rfl⟩, by decide, by decide⟩

theorem exists_of_next {o : Out} {p : State → Bool} (h : next o p = true) : ∃ t, o = .next t ∧ p t = true := by
  unfold next at h
  split at h
  · exact ⟨_, rfl, h⟩
  · cases h

theorem goes_on {o : Out} (h : next o (fun _ => true) = true) : ∃ t, o = .next t :=
  (exists_of_next h).imp fun _ h => h.1

/-- An access that completes. -/
def done {α : Type} (x : Except Stop α) : Bool :=
  match x with
  | .ok _ => true
  | .error _ => false

theorem exists_of_done {α : Type} {x : Except Stop α} (h : done x = true) : ∃ a, x = .ok a := by
  unfold done at h
  split at h
  · exact ⟨_, rfl⟩
  · cases h

/-! ### Encoding and memory -/

theorem witness_DecodeEncode :
    (Instr.ext 31 31 31 0).wellFormed = true ∧ (Instr.save true false true 0).wellFormed = true := by
  decide

theorem witness_EncodeDecode :
    decode32 0x7FFFF800 = .ok (.ext 31 31 31 0) ∧
      decodeShort (HalfFields.ofHalf 0x64D0) = .ok (.save true false true 0) ∧
      (0xF7FF : Half).extractLsb' 11 5 = 0x1E ∧
      decode16 0xF7FF 0xB71F = .ok (.lwpc 7 (.extended 0xFFFF)) := by
  decide

theorem witness_LoadAfterStore :
    withBytes.mem.wf = true ∧ (∃ t, withBytes.memWrite 0x80002003 1 0x1FF = .ok t) ∧
      (∃ t, withBytes.memWrite 0x80002002 2 0 = .ok t) ∧ ∃ t, withBytes.memWrite 0xFFFFFFFC 4 7 = .ok t :=
  ⟨by decide, exists_of_done (by decide), exists_of_done (by decide), exists_of_done (by decide)⟩

/-- The common hypotheses, and each clause at the ends of its range. -/
theorem witness_SegmentMapping :
    (State.reset.settled ∧ plain.settled ∧ user.settled) ∧
      ([State.reset, plain, user].all fun s =>
        !s.inDebug && s.platform.memMap == [⟨0, 4294967296, .memory⟩]) = true ∧
      (0x7FFFFFFF : Word).toNat % 4 + 1 ≤ 4 ∧ (0x7FFFFFFF : Word).toNat < 0x80000000 ∧
      statusERL State.reset.cp0.status = true ∧ statusERL plain.cp0.status = false ∧
      kernelMode plain.cp0.status = true ∧ kernelMode user.cp0.status = false ∧
      (0x80000000 : Word).toNat % 4 + 4 ≤ 4 ∧ 0x80000000 ≤ (0x9FFFFFFF : Word).toNat ∧
      (0x9FFFFFFF : Word).toNat < 0xA0000000 ∧ 0xA0000000 ≤ (0xA0000000 : Word).toNat ∧
      (0xBFFFFFFE : Word).toNat < 0xC0000000 ∧ 0xC0000000 ≤ (0xC0000000 : Word).toNat :=
  ⟨⟨⟨rfl, rfl⟩, ⟨rfl, rfl⟩, ⟨rfl, rfl⟩⟩, by decide⟩

/-! ### The step -/

/-- A MIPS16e state at the EXTEND form of ADDIUPC $2, 1. -/
def atExtended : State := { compact with mem := writeBytes [] 0x1000 [0x00, 0xF0, 0x01, 0x0A] }

theorem witness_StepRunsInstruction_word :
    let s := State.reset.withFetchWord 32 0x00221820
    let u := s.observe
    u.waiting = false ∧ u.eventTaken s.nextInput = none ∧ u.hz.staleText = [] ∧ u.flow.isaMode = false ∧
      u.flow.pc.toNat % 4 = 0 ∧ u.begin.place .fetch u.flow.pc 4 = .ok 0x1FC00000 ∧
      decode32 (u.wordAt 0x1FC00000) = .ok (.add 3 1 2) :=
  ⟨rfl, Option.isNone_iff_eq_none.mp (by decide), rfl, rfl, by decide, by decide, by decide⟩

theorem witness_StepRunsInstruction_half :
    let s := State.reset.withFetchWord 16 0xEA11
    let u := s.observe
    u.waiting = false ∧ u.eventTaken s.nextInput = none ∧ u.hz.staleText = [] ∧ u.flow.isaMode = true ∧
      u.flow.pc.toNat % 2 = 0 ∧ u.begin.place .fetch u.flow.pc 2 = .ok 0x1FC00000 ∧
      isLong16 (u.halfAt 0x1FC00000) = false ∧ decode16 (u.halfAt 0x1FC00000) 0 = .ok (.zeb 2) :=
  ⟨rfl, Option.isNone_iff_eq_none.mp (by decide), rfl, rfl, by decide, by decide, by decide, by decide⟩

theorem witness_StepRunsInstruction_pair :
    let s := atExtended
    let u := s.observe
    u.waiting = false ∧ u.eventTaken s.nextInput = none ∧ u.hz.staleText = [] ∧ u.flow.isaMode = true ∧
      u.flow.pc.toNat % 2 = 0 ∧ u.begin.place .fetch u.flow.pc 2 = .ok 0x1000 ∧
      isLong16 (u.halfAt 0x1000) = true ∧ u.begin.place .fetch (u.flow.pc + 2) 2 = .ok 0x1002 ∧
      decode16 (u.halfAt 0x1000) (u.halfAt 0x1002) = .ok (.addiupc 2 (.extended 1)) :=
  ⟨rfl, Option.isNone_iff_eq_none.mp (by decide), rfl, rfl, by decide, by decide, by decide, by decide, by decide⟩

theorem witness_WaitForInterrupt :
    plain.cop0Usable = true ∧ plain.flow.inDs = false ∧
      let s := { plain with waiting := true }
      s.waiting = true ∧ s.observe.wakes s.nextInput = false := by decide

/-- A reserved word, a reserved word of COP0, and a misaligned pc. -/
theorem witness_FetchExceptions :
    let s := { plain with mem := writeBytes [] 0x1000 [0xFF, 0xFF, 0xFF, 0xFF] }
    let c := { plain with mem := writeBytes [] 0x1000 [0x00, 0x00, 0x40, 0x40] }
    let m := { plain with flow := ⟨0x80001002, 0x80001006, false, false, false⟩ }
    (s.observe.ready ∧ c.observe.ready ∧ m.observe.ready) ∧
      (s.observe.eventTaken s.nextInput = none ∧ c.observe.eventTaken c.nextInput = none ∧
        m.observe.eventTaken m.nextInput = none) ∧
      s.observe.waiting = false ∧ s.observe.flow.isaMode = false ∧
      s.observe.begin.fetch s.observe.flow.pc 4 = .ok 0xFFFFFFFF ∧ decode32 0xFFFFFFFF = .error .reserved ∧
      field 0xFFFFFFFF 26 6 ≠ 0x10 ∧ c.observe.begin.fetch c.observe.flow.pc 4 = .ok 0x40400000 ∧
      decode32 0x40400000 = .error .reserved ∧ c.observe.cop0Usable = true ∧ m.observe.flow.pc.toNat % 4 ≠ 0 :=
  ⟨⟨⟨⟨rfl, rfl⟩, by decide, by decide⟩, ⟨⟨rfl, rfl⟩, by decide, by decide⟩, ⟨⟨rfl, rfl⟩, by decide, by decide⟩⟩,
    ⟨Option.isNone_iff_eq_none.mp (by decide), Option.isNone_iff_eq_none.mp (by decide),
      Option.isNone_iff_eq_none.mp (by decide)⟩, by decide⟩

/-! ### Arithmetic, shifts, barriers, HI and LO -/

/-- Sums and differences at the ends of the range, and just outside it. -/
theorem witness_AddResults :
    let s := State.load plain [(1, 0x7FFFFFFF), (2, 0), (3, 1), (4, 0x80000000)]
    s.ready ∧ FitsWord ((s.reg 1).toInt + (s.reg 2).toInt) ∧ ¬FitsWord ((s.reg 1).toInt + (s.reg 3).toInt) ∧
      FitsWord ((s.reg 4).toInt - (s.reg 2).toInt) ∧ ¬FitsWord ((s.reg 4).toInt - (s.reg 3).toInt) :=
  ⟨⟨⟨rfl, rfl⟩, by decide, by decide⟩, by unfold FitsWord; decide⟩

theorem witness_CountLeadingResults : (4 : Reg) ≠ 3 := by decide

theorem witness_BitFieldResults :
    (31 : BitVec 5).toNat + (0 : BitVec 5).toNat ≤ 31 ∧ ¬(1 : BitVec 5).toNat + (31 : BitVec 5).toNat ≤ 31 ∧
      (31 : BitVec 5).toNat ≤ (31 : BitVec 5).toNat ∧ ¬(31 : BitVec 5).toNat ≤ (30 : BitVec 5).toNat := by decide

theorem witness_ConditionalMoves : plain.reg 1 = 0 ∧ (plain.setReg 1 0x80000000).reg 1 ≠ 0 := by decide

theorem witness_ShiftResults :
    ¬((0 : Reg) = 0 ∧ (0 : Reg) = 0 ∧ ((2 : BitVec 5) = 0 ∨ (2 : BitVec 5) = 1 ∨ (2 : BitVec 5) = 3)) := by decide

theorem witness_BarrierInstructions :
    let s := { inSlot with hz := ⟨[(.status, 0)], none, true, []⟩ }
    s.flowLegal ∧ s.flow.inDs = true ∧ s.hz.hbPending = true ∧ plain.flow.inDs = false ∧
      ∃ t, exec (.mtc0 1 14 0) s = .next t ∧ InSequence s t :=
  ⟨⟨by decide, by decide, by decide, by decide, by decide, by decide⟩, rfl, rfl, rfl,
    (exists_of_next (p := fun t => t.flow == ⟨0x80002000, 0x80002004, false, false, false⟩) (by decide)).imp
      fun _ h => ⟨h.1, by
        have hf := eq_of_beq h.2
        simp only [InSequence, hf]
        decide⟩⟩

theorem witness_AccumulateResults :
    plain.hi = some 0 ∧ plain.lo = some 0 ∧ (plain.setHiLo none none false).hi = none := by decide

theorem witness_DivideResults :
    let s := State.load plain [(1, 0x80000000), (2, 1)]
    s.reg 2 ≠ 0 ∧ ¬(s.reg 1 = 0x80000000 ∧ s.reg 2 = 0xFFFFFFFF) ∧ 0 ≤ (s.reg 2).toInt ∧ (s.reg 1).toInt ≤ 0 := by decide

theorem witness_HiLoMoves :
    plain.hi = some 0 ∧ plain.lo = some 0 ∧ (plain.setHiLo none (some 1) false).hi = none ∧
      (plain.setHiLo (some 1) none false).lo = none := by decide

/-! ### Branches and jumps -/

theorem witness_PlainBranches : plain.flow.inDs = false ∧ (0 : Reg) ≠ 31 ∧ (30 : Reg) ≠ 31 := by decide

/-- The conditions of the likely branches hold and fail. -/
theorem witness_LikelyBranches :
    plain.flow.inDs = false ∧ (1 : Reg) ≠ 31 ∧ decide (plain.reg 1 = plain.reg 2) = true ∧
      decide (0 < (plain.reg 1).toInt) = false := by decide

theorem witness_Jumps : plain.flow.inDs = false ∧ (0 : Reg) ≠ 31 := by decide

theorem witness_UnpredictableStops :
    ([Instr.b 0, .eret, .deret, .wait 0, .jr 31, .jrc .ra, .bltzall 1 0, .jalr 31 30].all fun i =>
        transfersControl i && i.predictable) = true ∧
      (0x1FFFFE0 : BitVec 25).extractLsb' 0 6 = 0x20 ∧ inSlot.flow.inDs = true := by decide

/-! ### Loads and stores -/

theorem witness_LoadResults :
    let ea (o : Half) := withBytes.reg 1 + BitVec.ofInt 32 o.toInt
    withBytes.place .load (ea 11) 1 = .ok 0x200B ∧ (ea 0xFFFE).toNat % 2 = 0 ∧
      withBytes.place .load (ea 0xFFFE) 2 = .ok 0x1FFE ∧ (ea 4).toNat % 4 = 0 ∧
      withBytes.place .load (ea 4) 4 = .ok 0x2004 := by decide

theorem witness_StoreEffects :
    let ea (o : Half) := withBytes.reg 1 + BitVec.ofInt 32 o.toInt
    withBytes.mem.wf = true ∧ withBytes.place .store (ea 3) 1 = .ok 0x2003 ∧ (ea 2).toNat % 2 = 0 ∧
      withBytes.place .store (ea 2) 2 = .ok 0x2002 ∧ (ea 0).toNat % 4 = 0 ∧
      withBytes.place .store (ea 0) 4 = .ok 0x2000 := by decide

theorem witness_AddressErrors :
    let ea (o : Half) := withBytes.reg 1 + BitVec.ofInt 32 o.toInt
    let u := user.setReg 1 0x80000000
    (withBytes.ready ∧ u.ready) ∧ (ea 1).toNat % 2 ≠ 0 ∧ (ea 2).toNat % 4 ≠ 0 ∧ kernelMode u.cp0.status = false ∧
      bit (u.reg 1 + BitVec.ofInt 32 (0 : Half).toInt) 31 = true :=
  ⟨⟨⟨⟨rfl, rfl⟩, by decide, by decide⟩, ⟨⟨rfl, rfl⟩, by decide, by decide⟩⟩, by decide⟩

/-- LWPC at 0x80001000 in user mode, and misaligned by an odd EXTEND immediate; SAVE and RESTORE with a stack pointer
that is no multiple of 4, and with one whose first place has bit 31 set. -/
theorem witness_AddressErrors_compact :
    let k := compact.setReg 29 0x80002002
    let u := { user with flow := compact.flow }
    let v := u.setReg 29 0x80002000
    (k.ready ∧ u.ready ∧ v.ready) ∧
      ((k.flow.pc &&& 0xFFFFFFFC) + BitVec.ofInt 32 (1 : BitVec 16).toInt).toNat % 4 ≠ 0 ∧
      kernelMode u.cp0.status = false ∧ bit ((u.flow.pc &&& 0xFFFFFFFC) + BitVec.ofNat 32 (4 * 0)) 31 = true ∧
      frameRegisters true false false ≠ [] ∧ (k.reg 29 - 4).toNat % 4 ≠ 0 ∧
      (k.reg 29 + BitVec.ofNat 32 128 - 4).toNat % 4 ≠ 0 ∧ bit (v.reg 29 - 4) 31 = true ∧
      bit (v.reg 29 + BitVec.ofNat 32 8 - 4) 31 = true :=
  ⟨⟨⟨⟨rfl, rfl⟩, by decide, by decide⟩, ⟨⟨rfl, rfl⟩, by decide, by decide⟩, ⟨⟨rfl, rfl⟩, by decide, by decide⟩⟩,
    by decide⟩

/-- Both byte orders, at the first and the last byte of a word. -/
theorem witness_UnalignedLoads :
    ([(withBytes, 0), (withBytes, 3), (bigEndianBytes, 0), (bigEndianBytes, 3)] : List (State × Half)).all
      (fun (s, o) =>
        let ea := s.reg 1 + BitVec.ofInt 32 o.toInt
        let b := ea.toNat % 4
        decide (s.place .load (leftStart s.bigEndian ea) (leftCount s.bigEndian ea) =
            .ok (if s.bigEndian then 0x2000 + b else 0x2000)) &&
          decide (s.place .load (rightStart s.bigEndian ea) (rightCount s.bigEndian ea) =
            .ok (if s.bigEndian then 0x2000 else 0x2000 + b))) = true := by decide

theorem witness_UnalignedStores :
    withBytes.mem.wf = true ∧
      let ea := withBytes.reg 1 + BitVec.ofInt 32 (1 : Half).toInt
      withBytes.place .store (leftStart withBytes.bigEndian ea) (leftCount withBytes.bigEndian ea) = .ok 0x2000 ∧
        withBytes.place .store (rightStart withBytes.bigEndian ea) (rightCount withBytes.bigEndian ea) = .ok 0x2001 := by
  decide

/-- At an address in the middle of a word and at an aligned one. -/
theorem witness_UnalignedLoadPair :
    ([withBytes.setReg 1 0x80002001, withBytes].all fun s =>
      let a := s.reg 1
      !s.bigEndian && !s.flow.inDs && decide (s.place .load a (rightCount false a) = .ok (a.toNat - 0x80000000)) &&
        decide (s.place .load (leftStart false (a + 3)) (leftCount false (a + 3)) =
          .ok (if a.toNat % 4 = 0 then a.toNat - 0x80000000 else a.toNat - 0x80000000 + rightCount false a))) = true ∧
      (2 : Reg) ≠ 1 ∧ (2 : Reg) ≠ 0 := by decide

theorem witness_LinkedAccess :
    let ea := withBytes.reg 1 + BitVec.ofInt 32 (4 : Half).toInt
    let held := withBytes.setLink true ea
    ea.toNat % 4 = 0 ∧ withBytes.place .load ea 4 = .ok 0x2004 ∧ (withBytes.translate .store ea).isSome = true ∧
      withBytes.llBit = false ∧ held.llBit = true ∧ ea ≠ (withBytes.setLink true 0).llAddr ∧ ea = held.llAddr ∧
      held.place .store ea 4 = .ok 0x2004 ∧ held.mem.wf = true := by decide

/-! ### Exceptions and events -/

theorem witness_ExceptionEntry : plain.ready ∧ inSlot.ready ∧ (under 2).ready :=
  ⟨plain_ready, inSlot_ready, ⟨rfl, rfl⟩, by decide, by decide⟩

/-- Cause.IV set, with the vector spacing, Config3 and a Status. -/
def vectored (intCtl config3 status : Word) : State :=
  { plain with
    cp0 := { plain.cp0 with cause := 0x00800300, intCtl := intCtl, config3 := config3, status := status }
    port := ⟨0x20, none⟩ }

/-- The kinds of entry: compatibility, special vector (no spacing, neither VInt nor VEIC), vectored (the highest and
the lowest request), external controller. -/
theorem witness_InterruptEntry :
    (plain.ready ∧ (vectored 0 0x20 1).ready ∧ (vectored 0x20 0 1).ready ∧ (vectored 0x20 0x20 0x8101).ready ∧
        (vectored 0x20 0x60 1).ready) ∧
      statusEXL plain.cp0.status = false ∧ bit (plain.causeWord plain.cp0.cause) 23 = false ∧
      (let s := vectored 0 0x20 1;
        bit (s.causeWord s.cp0.cause) 23 = true ∧ field s.cp0.intCtl 5 5 = 0) ∧
      (let s := vectored 0x20 0 1;
        statusEXL s.cp0.status = false ∧ bit (s.causeWord s.cp0.cause) 23 = true ∧ bit s.cp0.config3 5 = false ∧
          bit s.cp0.config3 6 = false) ∧
      (let s := vectored 0x20 0x20 0x8101;
        let ca := s.causeWord s.cp0.cause;
        statusEXL s.cp0.status = false ∧ bit ca 23 = true ∧ statusBEV s.cp0.status = false ∧
          field s.cp0.intCtl 5 5 ≠ 0 ∧ bit s.cp0.config3 5 = true ∧ bit s.cp0.config3 6 = false ∧ bit ca (8 + 7) = true ∧
          bit s.cp0.status (8 + 7) = true ∧ field s.cp0.srsMap (4 * 7) 4 ≤ s.hss) ∧
      (let s := vectored 0x20 0x20 0x0101;
        let ca := s.causeWord s.cp0.cause;
        bit ca (8 + 0) = true ∧ bit s.cp0.status (8 + 0) = true ∧
          (∀ n, n < 8 → 0 < n → ¬(bit ca (8 + n) = true ∧ bit s.cp0.status (8 + n) = true))) ∧
      (let s := vectored 0x20 0x60 1;
        bit s.cp0.config3 6 = true ∧ field s.cp0.intCtl 5 5 ≠ 0 ∧ field s.cp0.srsCtl 18 4 ≤ s.hss) :=
  ⟨⟨plain_ready, ⟨⟨rfl, rfl⟩, by decide, by decide⟩, ⟨⟨rfl, rfl⟩, by decide, by decide⟩,
    ⟨⟨rfl, rfl⟩, by decide, by decide⟩, ⟨⟨rfl, rfl⟩, by decide, by decide⟩⟩, by decide⟩

/-- Level 1 is requested of an external controller, and IPL is 0. -/
def requestedLevel : State :=
  { vectored 0x20 0x60 1 with inputs := [presenting 1 none] }

/-- In external-controller mode, with RIPL above IPL. -/
theorem witness_InterruptTaken_controller :
    requestedLevel.observe.settled ∧
      let u := requestedLevel.observe
      let i := requestedLevel.nextInput
      let ca := u.causeWord u.cp0.cause
      i.event = none ∧ u.singleStepDue = false ∧ u.waiting = false ∧ bit u.cp0.config3 6 = true ∧
        bit ca 23 = true ∧ statusBEV u.cp0.status = false ∧ field u.cp0.intCtl 5 5 ≠ 0 ∧
        statusIE u.cp0.status = true ∧ statusEXL u.cp0.status = false ∧ statusERL u.cp0.status = false ∧
        u.inDebug = false ∧ i.accept = true ∧ field u.cp0.status 10 6 < field ca 10 6 :=
  ⟨⟨rfl, rfl⟩, by decide⟩

theorem witness_InterruptTaken :
    requested.observe.settled ∧
      let u := requested.observe
      let i := requested.nextInput
      let ca := u.causeWord u.cp0.cause
      i.event = none ∧ u.singleStepDue = false ∧ field u.cp0.intCtl 5 5 = 0 ∧ u.waiting = false ∧
        statusIE u.cp0.status = true ∧ statusEXL u.cp0.status = false ∧ statusERL u.cp0.status = false ∧
        u.inDebug = false ∧ i.accept = true ∧ field ca 8 8 &&& field u.cp0.status 8 8 ≠ 0 :=
  ⟨⟨rfl, rfl⟩, by decide⟩

/-- The interrupt ends a wait. -/
theorem witness_InterruptTaken_waiting :
    let s := { requested with waiting := true }
    s.observe.settled ∧ s.nextInput.event = none ∧ s.observe.singleStepDue = false ∧ s.observe.waiting = true ∧
      s.observe.wakes s.nextInput = true :=
  ⟨⟨rfl, rfl⟩, by decide⟩

/-- The clause of an interrupt that is not taken: interrupts are disabled. -/
theorem witness_InterruptTaken_not :
    plain.observe.settled ∧ plain.nextInput.event = none ∧ plain.observe.waiting = false ∧
      plain.observe.singleStepDue = false ∧ statusIE plain.observe.cp0.status = false :=
  ⟨⟨rfl, rfl⟩, by decide⟩

theorem witness_ResetClassEntry :
    let n := { plain with inputs := [presenting 0 (some .nmi)] }
    let d := { debugging with inputs := [presenting 0 (some .nmi)] }
    d.observe.settled ∧ ({ plain with inputs := [presenting 0 (some .softReset)] } : State).nextInput.event = some .softReset ∧
      n.nextInput.event = some .nmi ∧ n.observe.singleStepDue = false ∧ n.observe.inDebug = false ∧
      d.nextInput.event = some .nmi ∧ d.observe.inDebug = true :=
  ⟨⟨rfl, rfl⟩, by decide⟩

theorem witness_ColdReset : ({ plain with inputs := [presenting 0 (some .reset)] } : State).nextInput.event = some .reset := by
  decide

theorem witness_SystemCalls : user.ready := user_ready

theorem witness_DebugEntry : plain.inDebug = false ∧ debugging.inDebug = true := by decide

/-- A single step that is due, and a debug interrupt with none due. -/
theorem witness_DebugEntry_events :
    let due := { plain with cp0 := { plain.cp0 with debug := 0x02000100 }, stepped := true }
    let dint := { plain with inputs := [presenting 0 (some .debugInterrupt)] }
    (due.observe.hz.hazard = [] ∧ due.observe.inDebug = false ∧ due.nextInput.event = none ∧
        due.observe.waiting = false ∧ bit due.observe.cp0.debug 8 = true ∧ due.observe.stepped = true ∧
        due.observe.flow.inDs = false) ∧
      dint.observe.hz.hazard = [] ∧ dint.observe.inDebug = false ∧ dint.nextInput.event = some .debugInterrupt ∧
      bit dint.observe.cp0.debug 8 = false := by decide

theorem witness_Traps : plain.ready ∧ plain.reg 1 = plain.reg 2 ∧ (plain.setReg 1 1).reg 1 ≠ plain.reg 2 :=
  ⟨plain_ready, by decide⟩

/-! ### Coprocessor 0 -/

theorem witness_Cop0Access :
    user.ready ∧ plain.ready ∧ kernelMode user.cp0.status = false ∧ statusCU0 user.cp0.status = false ∧
      user.flow.inDs = false ∧ plain.cop0Usable = true ∧
      (3 : BitVec 25) ∉ [(0x01 : BitVec 25), 0x02, 0x06, 0x08, 0x18, 0x1F] ∧
      (3 : BitVec 25).extractLsb' 0 6 ≠ 0x20 ∧ (0x08 : BitVec 25) ∈ [(0x01 : BitVec 25), 0x02, 0x06, 0x08] :=
  ⟨user_ready, plain_ready, by decide⟩

/-- A register at rest, and one with an unbarriered write. -/
theorem witness_MoveFromCop0 :
    let s := { plain with hz := ⟨[(.epc, 4)], none, false, []⟩ }
    s.cop0Usable = true ∧ CpRegOf 12 0 = some .status ∧ s.hz.hazard.lookup CpReg.status = none ∧
      CpRegOf 14 0 = some .epc ∧ s.hz.hazard.lookup CpReg.epc = some 4 := by decide

/-- Cause with nothing waiting for a barrier. -/
theorem witness_MoveFromCop0_cause :
    plain.cop0Usable = true ∧ CpRegOf 13 0 = some .cause ∧ plain.hz.hazard = [] ∧
      plain.cp0.cause &&& 0x3000FC00 = 0 := by decide

/-- A register that is not there; writes that stop, one above the last value that does not; writes that do not. -/
theorem witness_MoveToCop0 :
    let s := State.load plain [(2, 0x2000), (3, 0x1000), (4, 0x60), (5, 0x200)]
    s.cop0Usable = true ∧ s.flow.inDs = false ∧ CpRegOf 5 0 = none ∧ CpRegOf 12 2 = some .srsCtl ∧
      s.hss < field (s.reg 2) 12 4 ∧ ¬(s.hss < field (s.reg 3) 12 4 ∨ s.hss < field (s.reg 3) 6 4) ∧
      CpRegOf 12 1 = some .intCtl ∧ (field (s.reg 4) 5 5).toNat ∉ [0, 1, 2, 4, 8, 16] ∧
      (field (s.reg 5) 5 5).toNat ∈ [0, 1, 2, 4, 8, 16] ∧ CpRegOf 12 3 = some .srsMap ∧ s.hss ≠ 0 ∧
      s.hss < field (s.reg 2) (4 * 3) 4 := by decide

theorem witness_WriteMasks :
    plain.platform.statusWriteMask = 0x1878FF17 ∧ plain.platform.busErrorBits = true ∧ debugging.inDebug = true := by decide

theorem witness_InterruptEnable : plain.cop0Usable = true ∧ plain.hz.hazard = [] ∧ plain.flow.inDs = false := by decide

theorem witness_ReturnFromException :
    plain.ready ∧ plain.flow.inDs = false ∧ plain.hz.hazard = [] ∧ plain.cop0Usable = true ∧
      debugging.flow.inDs = false ∧ debugging.hz.hazard = [] ∧ debugging.inDebug = true :=
  ⟨plain_ready, by decide⟩

/-- Allowed by the mode, allowed by HWREna, and not allowed; register 4 does not exist. -/
theorem witness_HardwareRegisters :
    let u := { user with cp0 := { user.cp0 with hwrena := 0x8 } }
    user.ready ∧ user.hz.hazard = [] ∧ plain.hz.hazard = [] ∧ u.hz.hazard = [] ∧ (3 : BitVec 5).toNat ≤ 3 ∧
      ¬(4 : BitVec 5).toNat ≤ 3 ∧ plain.platform.hwrenaImplMask.getLsbD 3 = true ∧
      kernelMode plain.cp0.status = true ∧ bit u.cp0.hwrena 3 = true ∧ user.inDebug = false ∧
      kernelMode user.cp0.status = false ∧ statusCU0 user.cp0.status = false ∧ bit user.cp0.hwrena 3 = false :=
  ⟨user_ready, by decide⟩

theorem witness_ShadowRegisters : plain.cop0Usable = true ∧ plain.hz.hazard = [] := by decide

/-! ### MIPS16e -/

theorem witness_CompactResults :
    compact.flow.inDs = false ∧ ((compact.flow.pc &&& 0xFFFFFFFC) + BitVec.ofNat 32 (4 * 255)).toNat % 4 = 0 ∧
      compact.place .load ((compact.flow.pc &&& 0xFFFFFFFC) + BitVec.ofNat 32 (4 * 255)) 4 = .ok 0x13FC := by decide

/-- A full frame at the lowest place the statements speak of; for RESTORE the stack pointer is 128 below it. -/
theorem witness_SaveFrame :
    let s := withStack.setReg 29 0xA000000C
    let r := withStack.setReg 29 (0xA000100C - 128)
    s.mem.wf = true ∧ (s.reg 29).toNat % 4 = 0 ∧
      (∀ k, k < (frameRegisters true true true).length →
        s.place .store (s.reg 29 - BitVec.ofNat 32 (4 * (k + 1))) 4 = .ok (12 - 4 * (k + 1))) ∧
      (r.reg 29).toNat % 4 = 0 ∧
      ∀ k, k < (frameRegisters true true true).length →
        r.place .load (r.reg 29 + BitVec.ofNat 32 128 - BitVec.ofNat 32 (4 * (k + 1))) 4 =
          .ok (0x100C - 4 * (k + 1)) := by decide

/-- User mode, with a frame whose first place is at 0 and whose second, below it, has bit 31 set: the first access
is granted, the second is an Address Error. -/
def acrossZero : State := State.load { user with flow := compact.flow } [(29, 4), (31, 0x11)]

theorem witness_SaveFrame_stopped :
    let s := acrossZero
    let r := acrossZero.setReg 29 (4 - 32)
    s.mem.wf = true ∧ (s.reg 29).toNat % 4 = 0 ∧ 1 < (frameRegisters true true true).length ∧
      (∀ k, k < 1 → s.place .store (s.reg 29 - BitVec.ofNat 32 (4 * (k + 1))) 4 = .ok (0x40000004 - 4 * (k + 1))) ∧
      s.place .store (s.reg 29 - BitVec.ofNat 32 (4 * (1 + 1))) 4 =
        .error (.raise (.addressErrorStore 0xFFFFFFFC)) ∧
      (r.reg 29).toNat % 4 = 0 ∧
      (∀ k, k < 1 →
        r.place .load (r.reg 29 + BitVec.ofNat 32 (8 * 4) - BitVec.ofNat 32 (4 * (k + 1))) 4 =
          .ok (0x40000004 - 4 * (k + 1))) ∧
      r.place .load (r.reg 29 + BitVec.ofNat 32 (8 * 4) - BitVec.ofNat 32 (4 * (1 + 1))) 4 =
        .error (.raise (.addressErrorLoad 0xFFFFFFFC)) := by decide

theorem witness_RestoreUndoesSave :
    let s := withStack
    (s.mem.wf = true ∧ (s.reg 29).toNat % 4 = 0 ∧
      (∀ k, k < (frameRegisters true true true).length →
        s.place .store (s.reg 29 - BitVec.ofNat 32 (4 * (k + 1))) 4 = .ok (0x1000 - 4 * (k + 1)) ∧
          s.place .load (s.reg 29 - BitVec.ofNat 32 (4 * (k + 1))) 4 = .ok (0x1000 - 4 * (k + 1)))) ∧
      ∃ t, exec (.save true true true 4) s = .next t :=
  ⟨by decide, goes_on (by decide)⟩

/-! ### The whole machine -/

theorem witness_OnlyStoresChangeMemory :
    storing (.add 3 1 2) = false ∧ ∃ t, exec (.add 3 1 2) plain = .next t :=
  ⟨by decide, goes_on (by decide)⟩

/-- An instruction that changes nothing of coprocessor 0, and one that raises an exception. -/
theorem witness_UserKeepsCop0 :
    user.settled ∧ user.inDebug = false ∧ kernelMode user.cp0.status = false ∧ statusCU0 user.cp0.status = false ∧
      (∃ t, exec (.add 3 1 2) user = .next t ∧ (t.cp0 == user.cp0) = true) ∧
      ∃ t, exec .eret user = .next t ∧ (t.cp0 != user.cp0) = true :=
  ⟨⟨rfl, rfl⟩, by decide, by decide, by decide, exists_of_next (by decide), exists_of_next (by decide)⟩

/-- A store in a delay slot: the step goes on, memory changes. -/
def storingByte : State := ((inSlot.setReg 1 0x80002000).setReg 2 0x55).withFetchWord 32 0xA0220001

theorem witness_StepKeepsCanonical : storingByte.canonical ∧ ∃ t, step storingByte = .next t :=
  ⟨show storingByte.mem.wf = true by decide, goes_on (by decide)⟩

theorem witness_StepKeepsFlow : storingByte.flowLegal ∧ ∃ t, step storingByte = .next t :=
  ⟨⟨by decide, by decide, by decide, by decide, by decide, by decide⟩, goes_on (by decide)⟩

theorem witness_StepKeepsSets : storingByte.setsLegal ∧ ∃ t, step storingByte = .next t :=
  ⟨⟨by decide, by decide, by decide, by decide, fun _ h => (nomatch h), by decide⟩, goes_on (by decide)⟩

theorem witness_StepKeepsReserved : storingByte.reservedLegal ∧ ∃ t, step storingByte = .next t :=
  ⟨⟨by decide, by decide, by decide, by decide, by decide, by decide, by decide, by decide⟩,
    goes_on (by decide)⟩

end Sys2Proof.Tests
end

section
/-! PROOFS. What the instructions of 40_arithmetic_logic.md answer and how they are encoded: first the facts about
fields, words, results and exceptions, then one theorem per statement. -/

namespace Sys2Proof

/-! ## Encodings: a word written out field by field -/

/-- A word put together from its fields decodes by the opcode maps. -/
theorem decode32_of_fields {f : Fields} {i : Instr} (h : decodeFields f = .ok i) : decode32 f.toWord = .ok i := by
  rw [decode32, Fields.ofWord_toWord, h]

/-- The I-type word, with its immediate in one piece. -/
theorem Fields.toWord_ofImm (op : BitVec 6) (rs rt : BitVec 5) (imm : Half) :
    (Fields.ofImm op rs rt imm).toWord = op ++ rs ++ rt ++ imm := by
  apply BitVec.eq_of_getLsbD_eq; intro i hi
  simp only [Fields.toWord, Fields.ofImm, BitVec.getLsbD_extractLsb', BitVec.getLsbD_append]
  interval_cases i <;> simp

/-- An I-type word decodes to what the opcode map makes of its immediate field. -/
theorem decode32_of_imm {op : BitVec 6} {rs rt : Reg} {imm : Half} (mk : Half → Instr)
    (h : decodeFields (.ofImm op rs rt imm) = .ok (mk (Fields.ofImm op rs rt imm).imm)) :
    decode32 (op ++ rs ++ rt ++ imm) = .ok (mk imm) := by
  rw [← Fields.toWord_ofImm, decode32_of_fields h, Fields.ofImm_imm]

end Sys2Proof

namespace Sys2Proof.Machine

/-! ## Bits and fields -/

@[simp] theorem bit_and (a b : Word) (k : Nat) : bit (a &&& b) k = (bit a k && bit b k) := BitVec.getLsbD_and
@[simp] theorem bit_or (a b : Word) (k : Nat) : bit (a ||| b) k = (bit a k || bit b k) := BitVec.getLsbD_or
@[simp] theorem bit_xor (a b : Word) (k : Nat) : bit (a ^^^ b) k = (bit a k != bit b k) := BitVec.getLsbD_xor

theorem bit_not (a : Word) {k : Nat} (hk : k < 32) : bit (~~~a) k = !bit a k := by
  simp [bit, hk]

theorem bit_shiftLeft (a : Word) (n : Nat) {k : Nat} (hk : k < 32) :
    bit (a <<< n) k = (decide (n ≤ k) && bit a (k - n)) := by
  rw [bit, BitVec.getLsbD_shiftLeft]
  by_cases h : n ≤ k <;> simp [hk, h, bit]

@[simp] theorem bit_shiftRight (a : Word) (n k : Nat) : bit (a >>> n) k = bit a (n + k) := BitVec.getLsbD_ushiftRight ..

theorem bit_setWidth {n : Nat} (v : BitVec n) {k : Nat} (hk : k < 32) : bit (v.setWidth 32) k = v.getLsbD k := by
  simp [bit, hk]

theorem bit_fieldMask (lo n : Nat) {k : Nat} (hk : k < 32) :
    bit (fieldMask lo n) k = decide (lo ≤ k ∧ k < lo + n) := by
  rw [fieldMask, bit_shiftLeft _ _ hk, bit_setWidth _ (by omega), BitVec.getLsbD_allOnes, Bool.decide_and]
  by_cases h : lo ≤ k
  · have : k - lo < n ↔ k < lo + n := by omega
    simp [h, this]
  · simp [h]

/-- A write of a field changes the bits of the field and no other. -/
theorem bit_setField (w : Word) (lo : Nat) {n : Nat} (v : BitVec n) {k : Nat} (hk : k < 32) :
    bit (setField w lo v) k = if lo ≤ k ∧ k < lo + n then v.getLsbD (k - lo) else bit w k := by
  rw [setField, bit_or, bit_and, bit_not _ hk, bit_fieldMask _ _ hk, bit_shiftLeft _ _ hk, bit_setWidth _ (by omega)]
  by_cases hin : lo ≤ k ∧ k < lo + n
  · simp [hin]
  · have hv : (decide (lo ≤ k) && v.getLsbD (k - lo)) = false := by
      by_cases h : lo ≤ k
      · simp [BitVec.getLsbD_of_ge v (k - lo) (by omega)]
      · simp [h]
    simp [hin, hv]

theorem getLsbD_field (w : Word) (lo n : Nat) {k : Nat} (hk : k < n) : (field w lo n).getLsbD k = bit w (lo + k) := by
  simp [field, bit, hk]

/-- The field written reads back. -/
theorem field_setField_self (w : Word) (lo : Nat) {n : Nat} (v : BitVec n) (h : lo + n ≤ 32) :
    field (setField w lo v) lo n = v := by
  apply BitVec.eq_of_getLsbD_eq; intro k hk
  rw [getLsbD_field _ _ _ hk, bit_setField _ _ _ (by omega), if_pos (by omega), Nat.add_sub_cancel_left]

/-- A field that lies apart from the one written keeps its value. -/
theorem field_setField_apart (w : Word) (lo lo' n' : Nat) {n : Nat} (v : BitVec n) (h : lo' + n' ≤ 32)
    (hd : lo' + n' ≤ lo ∨ lo + n ≤ lo') : field (setField w lo v) lo' n' = field w lo' n' := by
  apply BitVec.eq_of_getLsbD_eq; intro k hk
  rw [getLsbD_field _ _ _ hk, getLsbD_field _ _ _ hk, bit_setField _ _ _ (by omega), if_neg (by omega)]

/-- Words are equal when their 32 bits are. -/
theorem word_eq_of_bit_eq {v w : Word} (h : ∀ k, k < 32 → bit v k = bit w k) : v = w :=
  BitVec.eq_of_getLsbD_eq h

/-! ## Entry to an ordinary exception (60_exceptions.md R356 to R358) -/

/-- The vector of every exception but the interrupt lies at offset 0x180. -/
theorem State.vectorOffset_of_ne_interrupt (s : State) {e : Exc} (he : e ≠ .interrupt) : s.vectorOffset e = 0x180 := by
  simp [State.vectorOffset, he]

/-- The vector offset does not carry out of the low twelve bits of the page that EBase names. -/
theorem vector_in_page (base : Word) :
    (base &&& 0xFFFFF000).extractLsb' 30 2 ++ ((base &&& 0xFFFFF000) + 0x180).extractLsb' 0 30 =
      (base &&& 0xFFFFF000) ||| 0x180 := by
  have hadd : (base &&& 0xFFFFF000) + 0x180 = (base &&& 0xFFFFF000) ||| 0x180 :=
    BitVec.add_eq_or_of_and_eq_zero _ _ (by rw [BitVec.and_assoc]; simp)
  rw [hadd]
  apply BitVec.eq_of_getLsbD_eq; intro k hk
  simp only [BitVec.getLsbD_append, BitVec.getLsbD_extractLsb', BitVec.getLsbD_or]
  interval_cases k <;> simp

/-- With nothing waiting for a barrier, an exception other than the interrupt goes to the general vector. -/
theorem State.vectorAddress_general {s : State} (h : s.hz.hazard = []) {e : Exc} (he : e ≠ .interrupt) :
    s.vectorAddress e = s.generalVector := by
  simp only [State.vectorAddress, State.generalVector, s.vectorOffset_of_ne_interrupt he, State.viewed_settled h,
    State.cpReg_status, State.cpReg_ebase]
  split
  · decide
  · exact vector_in_page s.cp0.ebase

/-- With nothing waiting for a barrier, an exception other than the interrupt selects the set SRSCtl.ESS. -/
theorem State.newSet_ess {s : State} (h : s.hz.hazard = []) {e : Exc} (he : e ≠ .interrupt) : s.newSet e = s.ess := by
  simp [State.newSet, State.viewed_settled h, State.ess, he]

/-- With nothing waiting for a barrier, when the entry switches register sets. -/
theorem State.switchesSet_settled {s : State} (h : s.hz.hazard = []) :
    s.switchesSet = true ↔ statusEXL s.cp0.status = false ∧ s.hss ≠ 0 ∧ statusBEV s.cp0.status = false ∧
      statusERL s.cp0.status = false := by
  simp [State.switchesSet, State.viewed_settled h, and_assoc]

/-- The state after an ordinary entry. -/
def State.entered (s : State) (e : Exc) : State :=
  { (s.goTo (s.vectorAddress e) false) with cp0 := s.entryCp0 e, hz := Hazards.none, waiting := false }

/-- An exception taken in a ready state is an ordinary entry. -/
theorem takeException_ready {s : State} (h : s.ready) {e : Exc} (hi : e ≠ .interrupt) (hb : e ≠ .debugBreakpoint) :
    takeException e s = .next (s.entered e) := by
  obtain ⟨⟨hhaz, _⟩, hdm, hess⟩ := h
  have hset : ¬s.hss < s.newSet e := by rw [State.newSet_ess hhaz hi]; exact BitVec.not_lt.mpr hess
  simp [takeException, hdm, hb, enterOrdinary, hset, State.entered]

/-- Cause after an entry, outside the code: BD at an entry that is not nested, the other bits as before. -/
theorem State.bit_entryCause (s : State) (e : Exc) {k : Nat} (hk : k < 2 ∨ 7 ≤ k) :
    bit (s.entryCp0 e).cause k =
      if k = 31 ∧ statusEXL s.cp0.status = false then s.flow.inDs else bit s.cp0.cause k := by
  by_cases hk32 : k < 32
  · rw [State.entryCp0, bit_setField _ _ _ hk32, if_neg (by omega)]
    cases statusEXL s.cp0.status <;> simp [bit_setBit _ _ _ _ hk32]
  · rw [bit_above _ _ (by omega), bit_above _ _ (by omega), if_neg (by omega)]

/-- Status after an entry: EXL is set, the other bits are as before. -/
theorem State.bit_entryStatus (s : State) (e : Exc) (k : Nat) :
    bit (s.entryCp0 e).status k = if k = 1 then true else bit s.cp0.status k := by
  by_cases hk : k < 32
  · exact bit_setBit _ _ _ _ hk
  · rw [bit_above _ _ (by omega), bit_above _ _ (by omega), if_neg (by omega)]

/-- EPC after an entry that is not nested, and after one that is. -/
theorem State.entryCp0_epc (s : State) (e : Exc) :
    (s.entryCp0 e).epc = if statusEXL s.cp0.status then s.cp0.epc else s.returnWord := rfl

/-- What an ordinary entry does, the register set apart. -/
theorem State.entered_spec {s : State} (h : s.ready) {e : Exc} (hi : e ≠ .interrupt) :
    Entered s (s.entered e) (excCode e) (badAddress e s.cp0.badVAddr) s.generalVector := by
  obtain ⟨⟨hhaz, _⟩, _⟩ := h
  refine ⟨?code, ?cause, ?nested, ?outer, ?exl, ?status, rfl, rfl, ?flow, rfl, rfl, fun _ _ => rfl, ⟨rfl, rfl, rfl⟩,
    ⟨rfl, rfl⟩, ⟨rfl, rfl, rfl, rfl, rfl⟩, fun _ => rfl⟩
  case code => exact field_setField_self _ _ _ (by omega)
  case cause =>
    intro k hk h31
    exact (s.bit_entryCause e hk).trans (if_neg (by simp [h31]))
  case nested =>
    intro hexl
    exact ⟨(s.entryCp0_epc e).trans (if_pos hexl), (s.bit_entryCause e (by omega)).trans (if_neg (by simp [hexl]))⟩
  case outer =>
    intro hexl
    exact ⟨(s.entryCp0_epc e).trans (if_neg (by simp [hexl])),
      (s.bit_entryCause e (by omega)).trans (if_pos ⟨rfl, hexl⟩)⟩
  case exl => exact s.bit_entryStatus e 1
  case status =>
    intro k hk
    exact (s.bit_entryStatus e k).trans (if_neg hk)
  case flow => exact congrArg (fun v => (⟨v, v + 4, false, false, false⟩ : Flow)) (State.vectorAddress_general hhaz hi)

/-- The switch of register sets at an ordinary entry: CSS and PSS move on, the rest of SRSCtl is as before. -/
theorem State.entered_switches {s : State} (h : s.ready) {e : Exc} (hi : e ≠ .interrupt) :
    SwitchedTo s (s.entered e) s.ess := by
  obtain ⟨⟨hhaz, _⟩, _⟩ := h
  have hsrs : (s.entered e).cp0.srsCtl =
      if s.switchesSet then setField (setField s.cp0.srsCtl 6 s.css) 0 s.ess else s.cp0.srsCtl := by
    rw [← State.newSet_ess hhaz hi]; rfl
  unfold SwitchedTo
  split
  next hsw =>
    rw [if_pos ((State.switchesSet_settled hhaz).mpr hsw)] at hsrs
    refine ⟨?css, ?pss, ?rest⟩
    case css => rw [State.css, hsrs]; exact field_setField_self _ _ _ (by omega)
    case pss =>
      rw [State.pss, hsrs, field_setField_apart _ _ _ _ _ (by omega) (by omega)]
      exact field_setField_self _ _ _ (by omega)
    case rest =>
      rw [hsrs]
      apply word_eq_of_bit_eq; intro k hk
      simp only [bit_setField _ _ _ hk]
      split
      next hpss => rw [State.pss, getLsbD_field _ _ _ (by omega), Nat.add_sub_cancel' hpss.1]
      next =>
        split
        next hcss => rw [State.css, getLsbD_field _ _ _ (by omega), Nat.add_sub_cancel' hcss.1]
        next => rfl
  next hsw => rw [hsrs, if_neg (mt (State.switchesSet_settled hhaz).mp hsw)]

/-- An exception other than an interrupt or a debug breakpoint enters the general vector from a ready state. -/
theorem takeException_enters {s : State} (h : s.ready) {e : Exc} (hi : e ≠ .interrupt) (hb : e ≠ .debugBreakpoint) :
    Enters (takeException e s) s (excCode e) (badAddress e s.cp0.badVAddr) :=
  ⟨s.entered e, takeException_ready h hi hb, State.entered_spec h hi, State.entered_switches h hi⟩

/-! ## Values of words -/

theorem toInt_sext {n : Nat} (v : BitVec n) (h : n ≤ 32) : (sext v).toInt = v.toInt :=
  BitVec.toInt_signExtend_of_le h

/-- A sign-extended immediate read as unsigned. -/
theorem toNat_sext (imm : Half) :
    ((sext imm).toNat : Int) = if imm.toInt < 0 then 4294967296 + imm.toInt else imm.toInt := by
  rw [← toInt_sext imm (by omega), BitVec.toInt_eq_toNat_cond]
  have := (sext imm).isLt
  split <;> split <;> omega

theorem add_eq_ofInt (a b : Word) : a + b = BitVec.ofInt 32 (a.toInt + b.toInt) := by
  rw [BitVec.ofInt_add, BitVec.ofInt_toInt, BitVec.ofInt_toInt]

theorem sub_eq_ofInt (a b : Word) : a - b = BitVec.ofInt 32 (a.toInt - b.toInt) := by
  apply BitVec.eq_of_toInt_eq
  rw [BitVec.toInt_sub, BitVec.toInt_ofInt]

theorem toInt_wideSum (a b : Word) : (wideSum a b).toInt = a.toInt + b.toInt := by
  have ha := BitVec.toInt_signExtend_of_le (x := a) (v := 33) (by omega)
  have hb := BitVec.toInt_signExtend_of_le (x := b) (v := 33) (by omega)
  have := a.le_toInt; have := a.toInt_lt; have := b.le_toInt; have := b.toInt_lt
  rw [wideSum, BitVec.toInt_add, ha, hb, Int.bmod_eq_of_le] <;> omega

theorem toInt_wideDifference (a b : Word) : (wideDifference a b).toInt = a.toInt - b.toInt := by
  have ha := BitVec.toInt_signExtend_of_le (x := a) (v := 33) (by omega)
  have hb := BitVec.toInt_signExtend_of_le (x := b) (v := 33) (by omega)
  have := a.le_toInt; have := a.toInt_lt; have := b.le_toInt; have := b.toInt_lt
  rw [wideDifference, BitVec.toInt_sub, ha, hb, Int.bmod_eq_of_le] <;> omega

/-- Bits 32 and 31 of a 33-bit result differ when its value does not fit in a word. -/
theorem overflows_iff (t : BitVec 33) : overflows t = true ↔ ¬FitsWord t.toInt := by
  have := t.isLt
  simp only [overflows, FitsWord, BitVec.toInt_eq_toNat_cond, BitVec.getLsbD, Nat.testBit_eq_decide_div_mod_eq,
    bne_iff_ne, ne_eq, decide_eq_decide]
  split <;> omega

/-- The low 32 bits of a 33-bit result. -/
theorem setWidth_eq_ofInt (t : BitVec 33) : t.setWidth 32 = BitVec.ofInt 32 t.toInt :=
  (BitVec.signExtend_eq_setWidth_of_le t (by omega)).symm

theorem lui_value (imm : Half) : (imm ++ 0#16 : Word) = BitVec.ofNat 32 (65536 * imm.toNat) := by
  apply BitVec.eq_of_toNat_eq
  have := imm.isLt
  rw [BitVec.toNat_append, BitVec.toNat_ofNat, BitVec.toNat_ofNat, Nat.zero_mod, Nat.or_zero, Nat.shiftLeft_eq]
  omega

theorem field_low (w : Word) {n : Nat} (h : n ≤ 32) : field w 0 n = w.setWidth n :=
  (BitVec.setWidth_eq_extractLsb' h).symm

/-- The bytes of each halfword swapped, bit by bit. -/
theorem bit_swapped (v : Word) {i : Nat} (hi : i < 8) :
    let w : Word := field v 16 8 ++ field v 24 8 ++ field v 0 8 ++ field v 8 8
    bit w i = bit v (i + 8) ∧ bit w (i + 8) = bit v i ∧ bit w (i + 16) = bit v (i + 24) ∧
      bit w (i + 24) = bit v (i + 16) := by
  simp only [bit, BitVec.getLsbD_append, field, BitVec.getLsbD_extractLsb']
  interval_cases i <;> simp

/-! ## Leading bits (R138, R139) -/

theorem countLeading_le (b : Bool) (w : Word) : ∀ n, countLeading b w n ≤ n
  | 0 => Nat.le_refl 0
  | n + 1 => by
    have := countLeading_le b w n
    rw [countLeading]; split <;> omega

/-- The bits counted equal b. -/
theorem bit_of_countLeading (b : Bool) (w : Word) :
    ∀ n k, n - countLeading b w n ≤ k → k < n → bit w k = b
  | n + 1, k, hle, hlt => by
    rw [countLeading] at hle
    split at hle
    next hb =>
      by_cases hk : k = n
      · rw [hk, hb]
      · exact bit_of_countLeading b w n k (by omega) (by omega)
    next => omega

/-- The first bit not counted differs from b. -/
theorem bit_after_countLeading (b : Bool) (w : Word) :
    ∀ n, countLeading b w n < n → bit w (n - 1 - countLeading b w n) = !b
  | n + 1, h => by
    rw [countLeading] at h ⊢
    split
    next hb =>
      rw [if_pos hb] at h
      rw [show n + 1 - 1 - (countLeading b w n + 1) = n - 1 - countLeading b w n by omega]
      exact bit_after_countLeading b w n (by omega)
    next hb => simpa using (Bool.eq_not_of_ne hb)

/-! ## Bit fields (R143, R144) -/

theorem bit_lowOnes {n : Nat} (hn : n ≤ 32) (k : Nat) : bit (lowOnes n) k = decide (k < n) := by
  rw [lowOnes, bit_shiftRight, bit, BitVec.getLsbD_allOnes]
  exact decide_eq_decide.mpr (by omega)

theorem bit_extractField (w : Word) (lsb : Nat) {n : Nat} (hn : n ≤ 32) (k : Nat) :
    bit (extractField w lsb n) k = (decide (k < n) && bit w (lsb + k)) := by
  rw [extractField, bit_and, bit_shiftRight, bit_lowOnes hn, Bool.and_comm]

theorem bit_insertField (old new : Word) {lsb n k : Nat} (hn : n ≤ 32) (hk : k < 32) :
    bit (insertField old new lsb n) k = if lsb ≤ k ∧ k < lsb + n then bit new (k - lsb) else bit old k := by
  rw [insertField, bit_or, bit_and, bit_not _ hk, bit_shiftLeft _ _ hk, bit_shiftLeft _ _ hk, bit_and,
    bit_lowOnes hn]
  by_cases hl : lsb ≤ k
  · have hiff : k - lsb < n ↔ k < lsb + n := by omega
    by_cases hu : k < lsb + n <;> simp [hl, hu, hiff]
  · simp [hl]

/-! ## Register results -/

/-- A register result, its value given otherwise. -/
theorem writeReg_writes_of_eq {v w : Word} (h : v = w) (rd : Reg) (s : State) : Writes (writeReg rd v s) s rd w :=
  h ▸ writeReg_writes rd v s

/-- The results of ADD, ADDI and SUB: the exact value where it fits in a word, Integer Overflow where it does not. -/
theorem writeUnlessOverflow_exact {t : BitVec 33} {n : Int} (h : t.toInt = n) (rd : Reg) (s : State) :
    (FitsWord n → Writes (writeUnlessOverflow rd t s) s rd (BitVec.ofInt 32 n)) ∧
      (¬FitsWord n → writeUnlessOverflow rd t s = takeException .integerOverflow s ∧
        (s.ready → Enters (writeUnlessOverflow rd t s) s 12 s.cp0.badVAddr)) := by
  subst h
  rw [writeUnlessOverflow]
  constructor
  · intro hfit
    rw [if_neg (by simpa [overflows_iff] using hfit)]
    exact writeReg_writes_of_eq (setWidth_eq_ofInt t) rd s
  · intro hover
    rw [if_pos ((overflows_iff t).mpr hover)]
    exact ⟨rfl, fun hready => takeException_enters hready (by decide) (by decide)⟩

/-- A register result that is given bit by bit. -/
theorem writeReg_bitwise {v : Word} {f : Nat → Bool} (h : ∀ k, k < 32 → bit v k = f k) (rd : Reg) (s : State) :
    ∃ w, (∀ k, k < 32 → bit w k = f k) ∧ Writes (writeReg rd v s) s rd w :=
  ⟨v, h, writeReg_writes rd v s⟩

/-- A comparison written as 1 or 0. -/
theorem writeReg_flagWord {p q : Prop} [Decidable p] [Decidable q] (h : p ↔ q) (rd : Reg) (s : State) :
    Writes (writeReg rd (flagWord (decide p)) s) s rd (if q then 1 else 0) :=
  writeReg_writes_of_eq (by simp [flagWord, h]) rd s

/-- An instruction whose result is a count of leading bits. -/
theorem writes_countLeading {o : Out} {b : Bool} {w : Word} {rd : Reg} {s : State}
    (h : o = writeReg rd (BitVec.ofNat 32 (countLeading b w 32)) s) :
    ∃ n, n ≤ 32 ∧ (∀ k, 32 - n ≤ k → k < 32 → bit w k = b) ∧ (n < 32 → bit w (31 - n) = !b) ∧
      Writes o s rd (BitVec.ofNat 32 n) :=
  ⟨countLeading b w 32, countLeading_le b w 32, bit_of_countLeading b w 32, bit_after_countLeading b w 32,
    h ▸ writeReg_writes rd _ s⟩

/-! ## The statements -/

/-- Settles O9: the 33-bit sum and difference are exact, and their bits 32 and 31 differ when they leave a word. -/
theorem addResults : Obligations.AddResults := by
  intro s rd rs rt imm
  refine ⟨?add, ?addi, ?sub, ?addu, ?addiu, ?subu, decode32_of_fields (f := ⟨0x00, rs, rt, rd, 0, 0x20⟩) rfl,
    decode32_of_imm (.addi rt rs) rfl, decode32_of_imm (.addiu rt rs) rfl,
    decode32_of_fields (f := ⟨0x00, rs, rt, rd, 0, 0x21⟩) rfl,
    decode32_of_fields (f := ⟨0x00, rs, rt, rd, 0, 0x22⟩) rfl,
    decode32_of_fields (f := ⟨0x00, rs, rt, rd, 0, 0x23⟩) rfl⟩
  case add => exact writeUnlessOverflow_exact (toInt_wideSum _ _) rd s
  case addi =>
    rw [← toInt_sext imm (by omega)]
    exact writeUnlessOverflow_exact (toInt_wideSum _ _) rt s
  case sub => exact writeUnlessOverflow_exact (toInt_wideDifference _ _) rd s
  case addu => exact writeReg_writes_of_eq (BitVec.add_def _ _) rd s
  case addiu =>
    rw [← toInt_sext imm (by omega)]
    exact writeReg_writes_of_eq (add_eq_ofInt _ _) rt s
  case subu => exact writeReg_writes_of_eq (sub_eq_ofInt _ _) rd s

/-- Settles O10, bit by bit; the zero extension leaves the upper half of an immediate 0. -/
theorem logicResults : Obligations.LogicResults := by
  intro s rd rs rt imm
  refine ⟨?and, ?andi, ?or, ?ori, ?xor, ?xori, ?nor, ?lui,
    decode32_of_fields (f := ⟨0x00, rs, rt, rd, 0, 0x24⟩) rfl, decode32_of_imm (.andi rt rs) rfl,
    decode32_of_fields (f := ⟨0x00, rs, rt, rd, 0, 0x25⟩) rfl, decode32_of_imm (.ori rt rs) rfl,
    decode32_of_fields (f := ⟨0x00, rs, rt, rd, 0, 0x26⟩) rfl, decode32_of_imm (.xori rt rs) rfl,
    decode32_of_fields (f := ⟨0x00, rs, rt, rd, 0, 0x27⟩) rfl, decode32_of_imm (.lui rt) rfl⟩
  case and => exact writeReg_bitwise (fun k _ => bit_and _ _ k) rd s
  case andi => exact writeReg_bitwise (fun k hk => by rw [bit_and, zext, bit_setWidth imm hk]) rt s
  case or => exact writeReg_bitwise (fun k _ => bit_or _ _ k) rd s
  case ori => exact writeReg_bitwise (fun k hk => by rw [bit_or, zext, bit_setWidth imm hk]) rt s
  case xor => exact writeReg_bitwise (fun k _ => bit_xor _ _ k) rd s
  case xori => exact writeReg_bitwise (fun k hk => by rw [bit_xor, zext, bit_setWidth imm hk]) rt s
  case nor => exact writeReg_bitwise (fun k hk => by rw [bit_not _ hk, bit_or]) rd s
  case lui => exact writeReg_writes_of_eq (lui_value imm) rt s

/-- Settles O11: sign extension keeps the signed value, and fixes the unsigned one that SLTIU compares. -/
theorem setLessResults : Obligations.SetLessResults := by
  intro s rd rs rt imm
  refine ⟨?slt, ?slti, ?sltiu, ?sltu, decode32_of_fields (f := ⟨0x00, rs, rt, rd, 0, 0x2A⟩) rfl,
    decode32_of_imm (.slti rt rs) rfl, decode32_of_imm (.sltiu rt rs) rfl,
    decode32_of_fields (f := ⟨0x00, rs, rt, rd, 0, 0x2B⟩) rfl⟩
  case slt => exact writeReg_flagWord Iff.rfl rd s
  case slti => exact writeReg_flagWord (by rw [toInt_sext imm (by omega)]) rt s
  case sltiu => exact writeReg_flagWord (by rw [← toNat_sext, Int.ofNat_lt]) rt s
  case sltu => exact writeReg_flagWord Iff.rfl rd s

/-- Settles O12, by the recursion of the count over the bits from the left. -/
theorem countLeadingResults : Obligations.CountLeadingResults := by
  intro s rd rs rt
  refine ⟨?clo, ?clz, fun hne => ⟨if_neg hne, if_neg hne⟩,
    decode32_of_fields (f := ⟨0x1C, rs, rt, rd, 0, 0x21⟩) rfl,
    decode32_of_fields (f := ⟨0x1C, rs, rt, rd, 0, 0x20⟩) rfl⟩
  case clo => exact writes_countLeading (if_pos rfl)
  case clz => exact writes_countLeading (if_pos rfl)

/-- Settles O13: the low byte and halfword sign-extended, and the bytes that WSBH moves bit by bit. -/
theorem extensionResults : Obligations.ExtensionResults := by
  intro s rd rt
  refine ⟨?seb, ?seh, ?wsbh, decode32_of_fields (f := ⟨0x1F, 0, rt, rd, 0x10, 0x20⟩) rfl,
    decode32_of_fields (f := ⟨0x1F, 0, rt, rd, 0x18, 0x20⟩) rfl,
    decode32_of_fields (f := ⟨0x1F, 0, rt, rd, 0x02, 0x20⟩) rfl⟩
  case seb => exact writeReg_writes_of_eq (by rw [field_low _ (by omega)]; rfl) rd s
  case seh => exact writeReg_writes_of_eq (by rw [field_low _ (by omega)]; rfl) rd s
  case wsbh => exact ⟨_, fun i hi => bit_swapped (s.reg rt) hi, writeReg_writes rd _ s⟩

/-- Settles O14, by the bits of the mask that cuts a field out of a word. -/
theorem bitFieldResults : Obligations.BitFieldResults := by
  intro s rt rs m lsb
  refine ⟨?ext, ?ins, decode32_of_fields (f := ⟨0x1F, rs, rt, m, lsb, 0x00⟩) rfl,
    decode32_of_fields (f := ⟨0x1F, rs, rt, m, lsb, 0x04⟩) rfl⟩
  case ext =>
    split
    next hin =>
      have hexec : exec (.ext rt rs m lsb) s = writeReg rt (extractField (s.reg rs) lsb.toNat (m.toNat + 1)) s :=
        if_pos hin
      rw [hexec]
      refine writeReg_bitwise (fun i _ => ?_) rt s
      rw [bit_extractField _ _ (by omega), decide_eq_decide.mpr Nat.lt_succ_iff]
    next hout => exact if_neg hout
  case ins =>
    split
    next hin =>
      have hexec : exec (.ins rt rs m lsb) s =
          writeReg rt (insertField (s.reg rt) (s.reg rs) lsb.toNat (m.toNat - lsb.toNat + 1)) s := if_pos hin
      rw [hexec]
      refine writeReg_bitwise (fun i hi => ?_) rt s
      have hfield : i < lsb.toNat + (m.toNat - lsb.toNat + 1) ↔ i ≤ m.toNat := by omega
      rw [bit_insertField _ _ (by omega) hi]
      simp only [hfield]
    next hout => exact if_neg hout

/-- Settles O15, by the two cases of rt. -/
theorem conditionalMoves : Obligations.ConditionalMoves := by
  intro s rd rs rt
  refine ⟨?moves, decode32_of_fields (f := ⟨0x00, rs, rt, rd, 0, 0x0B⟩) rfl,
    decode32_of_fields (f := ⟨0x00, rs, rt, rd, 0, 0x0A⟩) rfl⟩
  case moves =>
    split
    next hz =>
      have hmovn : exec (.movn rd rs rt) s = retire s := if_neg (not_not.mpr hz)
      have hmovz : exec (.movz rd rs rt) s = writeReg rd (s.reg rs) s := if_pos hz
      rw [hmovn, hmovz]
      exact ⟨retire_passes s, writeReg_writes rd _ s⟩
    next hnz =>
      have hmovn : exec (.movn rd rs rt) s = writeReg rd (s.reg rs) s := if_pos hnz
      have hmovz : exec (.movz rd rs rt) s = retire s := if_neg hnz
      rw [hmovn, hmovz]
      exact ⟨writeReg_writes rd _ s, retire_passes s⟩

end Sys2Proof.Machine
end

section
/-! PROOFS. What the shifts, the rotates and NOP of 41_shift_nop.md answer and how they are encoded: first the values
of a shift and the bits of a rotate, then one theorem per statement. -/

namespace Sys2Proof

/-- The SLL word, apart from the three of them that are NOP, SSNOP and EHB (30_encoding.md R100). -/
theorem decodeFields_sll {rd rt : Reg} {sa : BitVec 5} (h : ¬(rd = 0 ∧ rt = 0 ∧ (sa = 0 ∨ sa = 1 ∨ sa = 3))) :
    decodeFields ⟨0x00, 0, rt, rd, sa, 0x00⟩ = .ok (.sll rd rt sa) :=
  calc decodeFields ⟨0x00, 0, rt, rd, sa, 0x00⟩
    _ = if rt == 0 && rd == 0 && sa == 0 then .ok .nop
        else if rt == 0 && rd == 0 && sa == 1 then .ok .ssnop
        else if rt == 0 && rd == 0 && sa == 3 then .ok .ehb
        else .ok (.sll rd rt sa) := rfl
    _ = .ok (.sll rd rt sa) := by
        simp only [Bool.and_eq_true, beq_iff_eq]
        rw [if_neg (by tauto), if_neg (by tauto), if_neg (by tauto)]

end Sys2Proof

namespace Sys2Proof.Machine

/-! ## Shifted values and rotated bits -/

theorem shiftLeft_eq_ofNat (v : Word) (n : Nat) : v <<< n = BitVec.ofNat 32 (v.toNat * 2 ^ n) := by
  rw [← Nat.shiftLeft_eq]; rfl

theorem ushiftRight_eq_ofNat (v : Word) (n : Nat) : v >>> n = BitVec.ofNat 32 (v.toNat / 2 ^ n) := by
  rw [← Nat.shiftRight_eq_div_pow, ← BitVec.toNat_ushiftRight, BitVec.ofNat_toNat, BitVec.setWidth_eq]

/-- Division of integers by a positive power rounds down, as the arithmetic shift does. -/
theorem sshiftRight_eq_ofInt (v : Word) (n : Nat) : v.sshiftRight n = BitVec.ofInt 32 (v.toInt / 2 ^ n) := by
  rw [BitVec.sshiftRight, Int.shiftRight_eq_div_pow]; norm_cast

/-- For n below 32: the bits below 32 - n are moved down by n, the n bits above them come from the right end. -/
theorem bit_rotateRight (v : Word) (n : Nat) {k : Nat} (hk : k < 32) :
    bit (v.rotateRight n) k = bit v ((k + n) % 32) := by
  rw [bit, BitVec.getLsbD_rotateRight, bit]
  by_cases hin : k < 32 - n % 32
  · rw [decide_eq_true hin, cond_true, show (k + n) % 32 = n % 32 + k by omega]
  · rw [decide_eq_false hin, cond_false, decide_eq_true hk, Bool.true_and,
      show (k + n) % 32 = k - (32 - n % 32) by omega]

theorem State.shiftAmount_eq_mod (s : State) (rs : Reg) : s.shiftAmount rs = (s.reg rs).toNat % 32 := by
  rw [State.shiftAmount, field_low _ (by omega), BitVec.toNat_setWidth]

/-! ## The statements -/

/-- Settles O16: the shifts by their values, the rotates bit by bit; a variable amount is a remainder by 32. -/
theorem shiftResults : Obligations.ShiftResults := by
  intro s rd rt rs sa
  have hn := s.shiftAmount_eq_mod rs
  refine ⟨?sll, ?sllv, ?srl, ?srlv, ?sra, ?srav, ?rotr, ?rotrv,
    fun h => decode32_of_fields (f := ⟨0x00, 0, rt, rd, sa, 0x00⟩) (decodeFields_sll h),
    decode32_of_fields (f := ⟨0x00, rs, rt, rd, 0, 0x04⟩) rfl,
    decode32_of_fields (f := ⟨0x00, 0, rt, rd, sa, 0x02⟩) rfl,
    decode32_of_fields (f := ⟨0x00, rs, rt, rd, 0, 0x06⟩) rfl,
    decode32_of_fields (f := ⟨0x00, 0, rt, rd, sa, 0x03⟩) rfl,
    decode32_of_fields (f := ⟨0x00, rs, rt, rd, 0, 0x07⟩) rfl,
    decode32_of_fields (f := ⟨0x00, 1, rt, rd, sa, 0x02⟩) rfl,
    decode32_of_fields (f := ⟨0x00, rs, rt, rd, 1, 0x06⟩) rfl⟩
  case sll => exact writeReg_writes_of_eq (shiftLeft_eq_ofNat _ _) rd s
  case sllv => rw [← hn]; exact writeReg_writes_of_eq (shiftLeft_eq_ofNat _ _) rd s
  case srl => exact writeReg_writes_of_eq (ushiftRight_eq_ofNat _ _) rd s
  case srlv => rw [← hn]; exact writeReg_writes_of_eq (ushiftRight_eq_ofNat _ _) rd s
  case sra => exact writeReg_writes_of_eq (sshiftRight_eq_ofInt _ _) rd s
  case srav => rw [← hn]; exact writeReg_writes_of_eq (sshiftRight_eq_ofInt _ _) rd s
  case rotr => exact writeReg_bitwise (fun _ hk => bit_rotateRight _ _ hk) rd s
  case rotrv => rw [← hn]; exact writeReg_bitwise (fun _ hk => bit_rotateRight _ _ hk) rd s

/-- Settles O17: the word of zeroes is NOP, and NOP retires. -/
theorem nopPasses : Obligations.NopPasses :=
  ⟨decode32_of_fields (f := ⟨0x00, 0, 0, 0, 0, 0x00⟩) rfl, retire_passes⟩

end Sys2Proof.Machine
end

section
/-! PROOFS. The decoder and the encoder are inverse to each other (30_encoding.md R94 to R104, 47_mips16e_only.md): each
opcode map is inverted once, and the two round trips are put together from the maps. -/

namespace Sys2Proof

/-! ## Fields put together from a wide immediate, index or code -/

/-- Two cuts of a word are equal when they make the same word. -/
theorem Fields.eq_of_toWord_eq {f g : Fields} (h : f.toWord = g.toWord) : f = g := by
  rw [← Fields.ofWord_toWord f, h, Fields.ofWord_toWord]

theorem Fields.toWord_of_append_imm (f : Fields) : f.op ++ f.rs ++ f.rt ++ f.imm = f.toWord := by
  apply BitVec.eq_of_getLsbD_eq; intro i hi
  simp only [Fields.toWord, Fields.imm, BitVec.getLsbD_append]
  interval_cases i <;> simp

@[simp] theorem Fields.ofImm_of_imm (f : Fields) : Fields.ofImm f.op f.rs f.rt f.imm = f :=
  Fields.eq_of_toWord_eq (by rw [Fields.toWord_ofImm, Fields.toWord_of_append_imm])

@[simp] theorem Fields.ofIndex_of_index (f : Fields) : Fields.ofIndex f.op f.index = f := by
  obtain ⟨op, rs, rt, rd, sa, fn⟩ := f
  simp only [Fields.ofIndex, Fields.index, Fields.mk.injEq, true_and]
  refine ⟨?_, ?_, ?_, ?_, ?_⟩ <;>
    (apply BitVec.eq_of_getLsbD_eq; intro i hi
     simp only [BitVec.getLsbD_extractLsb', BitVec.getLsbD_append]
     interval_cases i <;> simp)

@[simp] theorem Fields.ofCode20_of_code20 (f : Fields) : Fields.ofCode20 f.op f.code20 f.funct = f := by
  obtain ⟨op, rs, rt, rd, sa, fn⟩ := f
  simp only [Fields.ofCode20, Fields.code20, Fields.mk.injEq, true_and, and_true]
  refine ⟨?_, ?_, ?_, ?_⟩ <;>
    (apply BitVec.eq_of_getLsbD_eq; intro i hi
     simp only [BitVec.getLsbD_extractLsb', BitVec.getLsbD_append]
     interval_cases i <;> simp)

/-- The trap words have opcode SPECIAL. -/
theorem Fields.ofTrap_of_code10 {f : Fields} (h : f.op = 0x00) : Fields.ofTrap f.rs f.rt f.code10 f.funct = f := by
  obtain ⟨op, rs, rt, rd, sa, fn⟩ := f
  simp only at h
  simp only [Fields.ofTrap, Fields.code10, Fields.mk.injEq, h, true_and, and_true]
  refine ⟨?_, ?_⟩ <;>
    (apply BitVec.eq_of_getLsbD_eq; intro i hi
     simp only [BitVec.getLsbD_extractLsb', BitVec.getLsbD_append]
     interval_cases i <;> simp)

/-- The words of the CO space have opcode COP0 and the CO bit. -/
theorem Fields.ofCofun_of_cofun {f : Fields} (h : f.op = 0x10) (hco : f.rs.getLsbD 4 = true) :
    Fields.ofCofun f.cofun = f := by
  obtain ⟨op, rs, rt, rd, sa, fn⟩ := f
  simp only at h hco
  simp only [Fields.ofCofun, Fields.cofun, Fields.mk.injEq, h, true_and]
  refine ⟨?_, ?_, ?_, ?_, ?_⟩ <;>
    (apply BitVec.eq_of_getLsbD_eq; intro i hi
     simp only [BitVec.getLsbD_extractLsb', BitVec.getLsbD_append]
     interval_cases i <;> simp [hco])

/-- The function of a word of the CO space holds WAIT's code and the funct field. -/
theorem Fields.cofun_eq_code19_append (f : Fields) : f.cofun = f.code19 ++ f.funct := by
  apply BitVec.eq_of_getLsbD_eq; intro i hi
  simp only [Fields.cofun, Fields.code19, BitVec.getLsbD_append]

theorem Fields.ofCode19_eq_ofCofun (c : BitVec 19) : Fields.ofCode19 c = Fields.ofCofun (c ++ 0x20#6) := by
  simp only [Fields.ofCode19, Fields.ofCofun, Fields.mk.injEq, true_and]
  refine ⟨?_, ?_, ?_, ?_, ?_⟩ <;>
    (apply BitVec.eq_of_getLsbD_eq; intro i hi
     simp only [BitVec.getLsbD_extractLsb', BitVec.getLsbD_append]
     interval_cases i <;> simp)

/-! ## Decoding what the encoder makes -/

/-- The CO space, by its function. -/
theorem decodeFields_ofCofun (c : BitVec 25) :
    decodeFields (Fields.ofCofun c) =
      if c == 0x18 then .ok .eret else if c == 0x1F then .ok .deret
      else if c.extractLsb' 0 6 == 0x20 then .ok (.wait (Fields.ofCofun c).code19) else .ok (.cop0 c) := by
  have hco : (Fields.ofCofun c).rs.getLsbD 4 = true := by
    rw [Fields.ofCofun, BitVec.getLsbD_append]; rfl
  calc decodeFields (Fields.ofCofun c)
    _ = decodeCop0 (Fields.ofCofun c) := rfl
    _ = decodeCo (Fields.ofCofun c) := by rw [decodeCop0, if_pos hco]
    _ = _ := by rw [decodeCo, Fields.ofCofun_cofun]; rfl

/-- The WAIT word is neither that of ERET nor that of DERET: their functions end otherwise. -/
theorem decodeFields_ofCode19 (c : BitVec 19) : decodeFields (Fields.ofCode19 c) = .ok (.wait c) := by
  have hlow : (c ++ 0x20#6 : BitVec 25).extractLsb' 0 6 = 0x20 := by
    apply BitVec.eq_of_getLsbD_eq; intro i hi
    simp only [BitVec.getLsbD_extractLsb', BitVec.getLsbD_append]
    interval_cases i <;> simp
  have hne : ∀ d : BitVec 25, d.extractLsb' 0 6 ≠ 0x20 → ((c ++ 0x20#6 : BitVec 25) == d) = false := by
    intro d hd
    rw [beq_eq_false_iff_ne]
    rintro rfl
    exact hd hlow
  rw [Fields.ofCode19_eq_ofCofun, decodeFields_ofCofun, hne _ (by decide), hne _ (by decide), hlow,
    ← Fields.ofCode19_eq_ofCofun, Fields.ofCode19_code19]
  rfl


/-- An I-type word decodes to what the opcode map makes of its immediate. -/
theorem decode32_ofImm {op : BitVec 6} {rs rt : Reg} {imm : Half} (mk : Half → Instr)
    (h : decodeFields (.ofImm op rs rt imm) = .ok (mk (Fields.ofImm op rs rt imm).imm)) :
    decode32 (Fields.ofImm op rs rt imm).toWord = .ok (mk imm) := by
  rw [decode32_of_fields h, Fields.ofImm_imm]

/-- The code of SYSCALL, BREAK and SDBBP. -/
theorem decode32_ofCode20 {op fn : BitVec 6} {c : BitVec 20} (mk : BitVec 20 → Instr)
    (h : decodeFields (.ofCode20 op c fn) = .ok (mk (Fields.ofCode20 op c fn).code20)) :
    decode32 (Fields.ofCode20 op c fn).toWord = .ok (mk c) := by
  rw [decode32_of_fields h, Fields.ofCode20_code20]

/-- The code of a trap. -/
theorem decode32_ofTrap {fn : BitVec 6} {rs rt : Reg} {c : BitVec 10} (mk : BitVec 10 → Instr)
    (h : decodeFields (.ofTrap rs rt c fn) = .ok (mk (Fields.ofTrap rs rt c fn).code10)) :
    decode32 (Fields.ofTrap rs rt c fn).toWord = .ok (mk c) := by
  rw [decode32_of_fields h, Fields.ofTrap_code10]

/-- The index of a jump. -/
theorem decode32_ofIndex {op : BitVec 6} {j : BitVec 26} (mk : BitVec 26 → Instr)
    (h : decodeFields (.ofIndex op j) = .ok (mk (Fields.ofIndex op j).index)) :
    decode32 (Fields.ofIndex op j).toWord = .ok (mk j) := by
  rw [decode32_of_fields h, Fields.ofIndex_index]

/-- BEQ, apart from the words that are B. -/
theorem decodeFields_beq {rs rt : Reg} {offset : Half} (h : ¬(rs = 0 ∧ rt = 0)) :
    decodeFields (.ofImm 0x04 rs rt offset) = .ok (.beq rs rt (Fields.ofImm 0x04 rs rt offset).imm) := by
  have hne : ¬((rs == 0 && rt == 0) = true) := by simpa using h
  exact if_neg hne

/-- BGEZAL, apart from the words that are BAL. -/
theorem decodeFields_bgezal {rs : Reg} {offset : Half} (h : rs ≠ 0) :
    decodeFields (.ofImm 0x01 rs 0x11 offset) = .ok (.bgezal rs (Fields.ofImm 0x01 rs 0x11 offset).imm) := by
  have hne : ¬((rs == 0) = true) := by simpa using h
  exact if_neg hne

/-- The class row COP0, apart from the functions that have a row of their own. -/
theorem decodeFields_cop0 {c : BitVec 25} (h : (Instr.cop0 c).wellFormed = true) :
    decodeFields (.ofCofun c) = .ok (.cop0 c) := by
  simp only [Instr.wellFormed, Bool.and_eq_true, bne_iff_ne, ne_eq] at h
  obtain ⟨⟨heret, hderet⟩, hwait⟩ := h
  rw [decodeFields_ofCofun, if_neg (by simpa using heret), if_neg (by simpa using hderet),
    if_neg (by simpa using hwait)]

theorem selHigh (sel : BitVec 3) : (0#3 ++ sel).extractLsb' 3 3 = 0 := by decide +revert

theorem selLow (sel : BitVec 3) : (0#3 ++ sel).extractLsb' 0 3 = sel := by decide +revert

/-- MFC0 and MTC0 hold the select in the low half of the funct field. -/
theorem decodeFields_mfc0 (rt : Reg) (rd : BitVec 5) (sel : BitVec 3) :
    decodeFields ⟨0x10, 0x00, rt, rd, 0, 0#3 ++ sel⟩ = .ok (.mfc0 rt rd sel) := by
  simp [decodeFields, decodeCop0, ifZero, selHigh, selLow]

theorem decodeFields_mtc0 (rt : Reg) (rd : BitVec 5) (sel : BitVec 3) :
    decodeFields ⟨0x10, 0x04, rt, rd, 0, 0#3 ++ sel⟩ = .ok (.mtc0 rt rd sel) := by
  simp [decodeFields, decodeCop0, ifZero, selHigh, selLow]

/-- The bits of the low byte of SAVE and RESTORE. -/
theorem frameByte_fields (saves ra s0 s1 : Bool) (n : BitVec 4) :
    (frameByte saves ra s0 s1 n).getLsbD 7 = saves ∧ (frameByte saves ra s0 s1 n).getLsbD 6 = ra ∧
      (frameByte saves ra s0 s1 n).getLsbD 5 = s0 ∧ (frameByte saves ra s0 s1 n).getLsbD 4 = s1 ∧
      (frameByte saves ra s0 s1 n).extractLsb' 0 4 = n := by
  decide +revert

/-- The cuts of an EXTEND pair: the major opcode and register field of the second halfword, its zero field, and the
immediate, which the two halfwords hold between them. -/
theorem extended_fields (major : BitVec 5) (rx : Reg3) (imm : Half) :
    let first : Half := 0x1E#5 ++ imm.extractLsb' 5 6 ++ imm.extractLsb' 11 5
    let second : Half := major ++ rx ++ 0#3 ++ imm.extractLsb' 0 5
    first.extractLsb' 11 5 = 0x1E ∧ (HalfFields.ofHalf second).major = major ∧ (HalfFields.ofHalf second).rx = rx ∧
      (HalfFields.ofHalf second).low.extractLsb' 5 3 = 0 ∧ extendImm first second = imm := by
  refine ⟨?_, ?_, ?_, ?_, ?_⟩ <;>
    (apply BitVec.eq_of_getLsbD_eq; intro i hi
     simp only [HalfFields.ofHalf, extendImm, BitVec.getLsbD_extractLsb', BitVec.getLsbD_append]
     interval_cases i <;> simp)

/-- SAVE and RESTORE, by the bits of the low byte. -/
theorem decodeShort_frame (low : BitVec 8) :
    decodeShort ⟨0x0C, 4, low⟩ =
      if low.getLsbD 7 then
        .ok (.save (low.getLsbD 6) (low.getLsbD 5) (low.getLsbD 4) (low.extractLsb' 0 4))
      else .ok (.restore (low.getLsbD 6) (low.getLsbD 5) (low.getLsbD 4) (low.extractLsb' 0 4)) := rfl

/-- A halfword put together from its fields decodes by the MIPS16e opcode map. -/
theorem decode_half_of_fields {f : HalfFields} {i : Instr} (h : decodeShort f = .ok i) :
    decode (.half f.toHalf) = .ok i := by
  rw [decode, HalfFields.ofHalf_toHalf, h]

/-- The EXTEND forms of ADDIUPC and LWPC. -/
theorem decode_encodeExtended {major : BitVec 5} (rx : Reg3) (imm : Half) (mk : Reg3 → Half → Instr)
    (h : ∀ second : Half, (HalfFields.ofHalf second).major = major → ∀ first,
      decodeExtended first second = ifZero ((HalfFields.ofHalf second).low.extractLsb' 5 3 == 0)
        (mk (HalfFields.ofHalf second).rx (extendImm first second))) :
    decode (encodeExtended major rx imm) = .ok (mk rx imm) := by
  obtain ⟨hext, hmajor, hrx, hzero, himm⟩ := extended_fields major rx imm
  rw [encodeExtended, decode, decode16, hext, if_pos (by rfl), h _ hmajor, hzero, hrx, himm]
  rfl

/-- Settles O1, by the constructors. -/
theorem decodeEncode : Obligations.DecodeEncode := by
  intro i hw
  cases i with
  | add rd rs rt | addu rd rs rt | sub rd rs rt | subu rd rs rt | and rd rs rt | or rd rs rt | xor rd rs rt
  | nor rd rs rt | slt rd rs rt | sltu rd rs rt | movz rd rs rt | movn rd rs rt | clz rd rs rt | clo rd rs rt
  | wsbh rd rt | seb rd rt | seh rd rt | ext rt rs msbd lsb | ins rt rs msb lsb
  | srl rd rt sa | rotr rd rt sa | sra rd rt sa | sllv rd rt rs | srlv rd rt rs | rotrv rd rt rs | srav rd rt rs
  | nop | ssnop | ehb | mult rs rt | multu rs rt | div rs rt | divu rs rt | mul rd rs rt | madd rs rt | maddu rs rt
  | msub rs rt | msubu rs rt | mfhi rd | mthi rs | mflo rd | mtlo rs
  | jr rs | jrHb rs | jalr rd rs | jalrHb rd rs | sync stype | rdhwr rt rd => exact decode32_of_fields rfl
  | di rt | ei rt | rdpgpr rd rt | wrpgpr rd rt => exact decode32_of_fields (by simp [decodeFields, decodeCop0, ifZero])
  | sll rd rt sa =>
    have hsll : ¬(rd = 0 ∧ rt = 0 ∧ (sa = 0 ∨ sa = 1 ∨ sa = 3)) := by
      simp only [Instr.wellFormed, Bool.not_eq_true', Bool.and_eq_false_iff, Bool.or_eq_false_iff,
        beq_eq_false_iff_ne] at hw
      tauto
    exact decode32_of_fields (decodeFields_sll hsll)
  | addi rt rs imm => exact decode32_ofImm (.addi rt rs) rfl
  | addiu rt rs imm => exact decode32_ofImm (.addiu rt rs) rfl
  | slti rt rs imm => exact decode32_ofImm (.slti rt rs) rfl
  | sltiu rt rs imm => exact decode32_ofImm (.sltiu rt rs) rfl
  | andi rt rs imm => exact decode32_ofImm (.andi rt rs) rfl
  | ori rt rs imm => exact decode32_ofImm (.ori rt rs) rfl
  | xori rt rs imm => exact decode32_ofImm (.xori rt rs) rfl
  | lui rt imm => exact decode32_ofImm (.lui rt) rfl
  | b offset => exact decode32_ofImm .b rfl
  | bal offset => exact decode32_ofImm .bal rfl
  | beq rs rt offset =>
    have hbeq : ¬(rs = 0 ∧ rt = 0) := by
      simp only [Instr.wellFormed, Bool.not_eq_true', Bool.and_eq_false_iff, beq_eq_false_iff_ne] at hw
      tauto
    exact decode32_ofImm (.beq rs rt) (decodeFields_beq hbeq)
  | bne rs rt offset => exact decode32_ofImm (.bne rs rt) rfl
  | blez rs offset => exact decode32_ofImm (.blez rs) rfl
  | bgtz rs offset => exact decode32_ofImm (.bgtz rs) rfl
  | bltz rs offset => exact decode32_ofImm (.bltz rs) rfl
  | bgez rs offset => exact decode32_ofImm (.bgez rs) rfl
  | bltzl rs offset => exact decode32_ofImm (.bltzl rs) rfl
  | bgezl rs offset => exact decode32_ofImm (.bgezl rs) rfl
  | bltzal rs offset => exact decode32_ofImm (.bltzal rs) rfl
  | bgezal rs offset => exact decode32_ofImm (.bgezal rs) (decodeFields_bgezal (by simpa [Instr.wellFormed] using hw))
  | bltzall rs offset => exact decode32_ofImm (.bltzall rs) rfl
  | bgezall rs offset => exact decode32_ofImm (.bgezall rs) rfl
  | beql rs rt offset => exact decode32_ofImm (.beql rs rt) rfl
  | bnel rs rt offset => exact decode32_ofImm (.bnel rs rt) rfl
  | blezl rs offset => exact decode32_ofImm (.blezl rs) rfl
  | bgtzl rs offset => exact decode32_ofImm (.bgtzl rs) rfl
  | j index => exact decode32_ofIndex .j rfl
  | jal index => exact decode32_ofIndex .jal rfl
  | lb rt offset base => exact decode32_ofImm (.lb rt · base) rfl
  | lh rt offset base => exact decode32_ofImm (.lh rt · base) rfl
  | lwl rt offset base => exact decode32_ofImm (.lwl rt · base) rfl
  | lw rt offset base => exact decode32_ofImm (.lw rt · base) rfl
  | lbu rt offset base => exact decode32_ofImm (.lbu rt · base) rfl
  | lhu rt offset base => exact decode32_ofImm (.lhu rt · base) rfl
  | lwr rt offset base => exact decode32_ofImm (.lwr rt · base) rfl
  | sb rt offset base => exact decode32_ofImm (.sb rt · base) rfl
  | sh rt offset base => exact decode32_ofImm (.sh rt · base) rfl
  | sw rt offset base => exact decode32_ofImm (.sw rt · base) rfl
  | swl rt offset base => exact decode32_ofImm (.swl rt · base) rfl
  | swr rt offset base => exact decode32_ofImm (.swr rt · base) rfl
  | ll rt offset base => exact decode32_ofImm (.ll rt · base) rfl
  | sc rt offset base => exact decode32_ofImm (.sc rt · base) rfl
  | syscall code => exact decode32_ofCode20 .syscall rfl
  | break_ code => exact decode32_ofCode20 .break_ rfl
  | sdbbp code => exact decode32_ofCode20 .sdbbp rfl
  | tge rs rt code => exact decode32_ofTrap (.tge rs rt) rfl
  | tgeu rs rt code => exact decode32_ofTrap (.tgeu rs rt) rfl
  | tlt rs rt code => exact decode32_ofTrap (.tlt rs rt) rfl
  | tltu rs rt code => exact decode32_ofTrap (.tltu rs rt) rfl
  | teq rs rt code => exact decode32_ofTrap (.teq rs rt) rfl
  | tne rs rt code => exact decode32_ofTrap (.tne rs rt) rfl
  | tgei rs imm => exact decode32_ofImm (.tgei rs) rfl
  | tgeiu rs imm => exact decode32_ofImm (.tgeiu rs) rfl
  | tlti rs imm => exact decode32_ofImm (.tlti rs) rfl
  | tltiu rs imm => exact decode32_ofImm (.tltiu rs) rfl
  | teqi rs imm => exact decode32_ofImm (.teqi rs) rfl
  | tnei rs imm => exact decode32_ofImm (.tnei rs) rfl
  | wait code => exact decode32_of_fields (decodeFields_ofCode19 code)
  | cop0 cofun => exact decode32_of_fields (decodeFields_cop0 hw)
  | eret => exact decode32_of_fields (decodeFields_ofCofun 0x18)
  | deret => exact decode32_of_fields (decodeFields_ofCofun 0x1F)
  | mfc0 rt rd sel => exact decode32_of_fields (decodeFields_mfc0 rt rd sel)
  | mtc0 rt rd sel => exact decode32_of_fields (decodeFields_mtc0 rt rd sel)
  | jalrc rx | zeb rx | zeh rx => exact decode_half_of_fields rfl
  | addiupc rx imm =>
    cases imm with
    | short imm => exact decode_half_of_fields rfl
    | extended imm =>
      exact decode_encodeExtended rx imm (fun r v => .addiupc r (.extended v)) fun second h first => by
        rw [decodeExtended, h]; rfl
  | lwpc rx imm =>
    cases imm with
    | short imm => exact decode_half_of_fields rfl
    | extended imm =>
      exact decode_encodeExtended rx imm (fun r v => .lwpc r (.extended v)) fun second h first => by
        rw [decodeExtended, h]; rfl
  | jrc target =>
    cases target with
    | rx rx => exact decode_half_of_fields rfl
    | ra => exact decode_half_of_fields rfl
  | save ra s0 s1 n =>
    obtain ⟨hsaves, hra, hs0, hs1, hn⟩ := frameByte_fields true ra s0 s1 n
    exact decode_half_of_fields ((decodeShort_frame _).trans (by rw [hsaves, hra, hs0, hs1, hn]; rfl))
  | restore ra s0 s1 n =>
    obtain ⟨hsaves, hra, hs0, hs1, hn⟩ := frameByte_fields false ra s0 s1 n
    exact decode_half_of_fields ((decodeShort_frame _).trans (by rw [hsaves, hra, hs0, hs1, hn]; rfl))

/-! ## Encoding what the decoder reads -/

/-- The decoder answers the instruction for the fields, and these are the fields the encoder gives it. -/
def EncodesTo (i : Instr) (f : Fields) : Prop := i.wellFormed = true ∧ encodeFields i = some f

/-- A word whose must-be-zero fields are checked. -/
theorem EncodesTo.of_ifZero {zero : Bool} {i j : Instr} {f : Fields} (h : ifZero zero i = .ok j)
    (he : zero = true → EncodesTo i f) : EncodesTo j f := by
  cases zero with
  | false => cases h
  | true => cases h; exact he rfl

/-- Opcode SPECIAL inverted (R95). -/
theorem decodeSpecial_inv {f : Fields} {i : Instr} (hop : f.op = 0x00) (h : decodeSpecial f = .ok i) :
    EncodesTo i f := by
  obtain ⟨op, rs, rt, rd, sa, fn⟩ := f
  unfold decodeSpecial at h
  simp only at hop h
  subst hop
  split at h
  case h_1 => -- NOP, SSNOP, EHB, and SLL for the other words
    split at h
    next => cases h
    next hrs =>
      obtain rfl : rs = 0 := by simpa using hrs
      split at h
      next hnop =>
        simp only [Bool.and_eq_true, beq_iff_eq] at hnop
        obtain ⟨⟨rfl, rfl⟩, rfl⟩ := hnop
        cases h; exact ⟨rfl, rfl⟩
      next hnop =>
        split at h
        next hssnop =>
          simp only [Bool.and_eq_true, beq_iff_eq] at hssnop
          obtain ⟨⟨rfl, rfl⟩, rfl⟩ := hssnop
          cases h; exact ⟨rfl, rfl⟩
        next hssnop =>
          split at h
          next hehb =>
            simp only [Bool.and_eq_true, beq_iff_eq] at hehb
            obtain ⟨⟨rfl, rfl⟩, rfl⟩ := hehb
            cases h; exact ⟨rfl, rfl⟩
          next hehb =>
            cases h
            refine ⟨?_, rfl⟩
            simp only [Bool.and_eq_true, beq_iff_eq] at hnop hssnop hehb
            simp only [Instr.wellFormed, Bool.not_eq_true', Bool.and_eq_false_iff, Bool.or_eq_false_iff,
              beq_eq_false_iff_ne]
            tauto
  case h_3 | h_6 => -- SRL and ROTR, SRLV and ROTRV
    split at h
    next hsel =>
      obtain rfl := eq_of_beq hsel
      cases h; exact ⟨rfl, rfl⟩
    next => exact .of_ifZero h (by rintro hone; obtain rfl := eq_of_beq hone; exact ⟨rfl, rfl⟩)
  case h_8 | h_9 => -- JR.HB and JR, JALR.HB and JALR
    split at h
    next hsel =>
      obtain rfl := eq_of_beq hsel
      exact .of_ifZero h (by simp only [Bool.and_eq_true, beq_iff_eq, and_imp]; intros; subst_vars; exact ⟨rfl, rfl⟩)
    next =>
      exact .of_ifZero h (by simp only [Bool.and_eq_true, beq_iff_eq, and_imp]; intros; subst_vars; exact ⟨rfl, rfl⟩)
  case h_12 | h_13 => -- SYSCALL and BREAK
    cases h; exact ⟨rfl, congrArg some (Fields.ofCode20_of_code20 ⟨0x00, rs, rt, rd, sa, _⟩)⟩
  case h_33 | h_34 | h_35 | h_36 | h_37 | h_38 => -- the traps
    cases h; exact ⟨rfl, congrArg some (Fields.ofTrap_of_code10 (f := ⟨0x00, rs, rt, rd, sa, _⟩) rfl)⟩
  case h_2 | h_39 => cases h
  all_goals -- the words whose other fields must be zero
    exact .of_ifZero h (by simp only [Bool.and_eq_true, beq_iff_eq, and_imp]; intros; subst_vars; exact ⟨rfl, rfl⟩)

/-- Opcode REGIMM inverted (R96). -/
theorem decodeRegimm_inv {f : Fields} {i : Instr} (hop : f.op = 0x01) (h : decodeRegimm f = .ok i) :
    EncodesTo i f := by
  have himm : Fields.ofImm 0x01 f.rs f.rt f.imm = f := hop ▸ f.ofImm_of_imm
  unfold decodeRegimm at h
  split at h
  case h_12 hrt => -- BAL, and BGEZAL for the other registers
    rw [hrt] at himm
    split at h
    next hrs =>
      rw [eq_of_beq hrs] at himm
      cases h; exact ⟨rfl, congrArg some himm⟩
    next hrs => cases h; exact ⟨by simpa [Instr.wellFormed] using hrs, congrArg some himm⟩
  case h_15 | h_16 => cases h
  all_goals
    rename_i hrt
    rw [hrt] at himm
    cases h; exact ⟨rfl, congrArg some himm⟩

/-- Opcode SPECIAL2 inverted (R97). -/
theorem decodeSpecial2_inv {f : Fields} {i : Instr} (hop : f.op = 0x1C) (h : decodeSpecial2 f = .ok i) :
    EncodesTo i f := by
  obtain ⟨op, rs, rt, rd, sa, fn⟩ := f
  unfold decodeSpecial2 at h
  simp only at hop h
  subst hop
  split at h
  case h_8 => -- SDBBP
    cases h; exact ⟨rfl, congrArg some (Fields.ofCode20_of_code20 ⟨0x1C, rs, rt, rd, sa, _⟩)⟩
  case h_9 => cases h
  all_goals
    exact .of_ifZero h (by simp only [Bool.and_eq_true, beq_iff_eq, and_imp]; intros; subst_vars; exact ⟨rfl, rfl⟩)

/-- Opcode SPECIAL3 inverted (R98). -/
theorem decodeSpecial3_inv {f : Fields} {i : Instr} (hop : f.op = 0x1F) (h : decodeSpecial3 f = .ok i) :
    EncodesTo i f := by
  obtain ⟨op, rs, rt, rd, sa, fn⟩ := f
  unfold decodeSpecial3 at h
  simp only at hop h
  subst hop
  split at h
  case h_1 | h_2 => cases h; exact ⟨rfl, rfl⟩ -- EXT and INS
  case h_3 => -- BSHFL
    split at h
    case h_4 => cases h
    all_goals exact .of_ifZero h (by intro hrs; obtain rfl := eq_of_beq hrs; exact ⟨rfl, rfl⟩)
  case h_4 =>
    exact .of_ifZero h (by simp only [Bool.and_eq_true, beq_iff_eq, and_imp]; intros; subst_vars; exact ⟨rfl, rfl⟩)
  case h_5 => cases h

/-- The CO space inverted: ERET, DERET and WAIT win over the class row (R99, R100). -/
theorem decodeCo_inv {f : Fields} {i : Instr} (hop : f.op = 0x10) (hco : f.rs.getLsbD 4 = true)
    (h : decodeCo f = .ok i) : EncodesTo i f := by
  have hf := Fields.ofCofun_of_cofun hop hco
  have hfunct : f.cofun.extractLsb' 0 6 = f.funct := by
    rw [Fields.cofun]
    apply BitVec.eq_of_getLsbD_eq; intro k hk
    simp only [BitVec.getLsbD_extractLsb', BitVec.getLsbD_append]
    simp [hk]
  unfold decodeCo at h
  split at h
  next heret => rw [eq_of_beq heret] at hf; cases h; exact ⟨rfl, congrArg some hf⟩
  next heret =>
    split at h
    next hderet => rw [eq_of_beq hderet] at hf; cases h; exact ⟨rfl, congrArg some hf⟩
    next hderet =>
      split at h
      next hwait =>
        rw [f.cofun_eq_code19_append, eq_of_beq hwait] at hf
        cases h; exact ⟨rfl, congrArg some ((Fields.ofCode19_eq_ofCofun _).trans hf)⟩
      next hwait =>
        cases h
        refine ⟨?_, congrArg some hf⟩
        simp only [beq_iff_eq] at heret hderet hwait
        simp only [Instr.wellFormed, Bool.and_eq_true, bne_iff_ne, ne_eq, hfunct]
        exact ⟨⟨heret, hderet⟩, hwait⟩

/-- Opcode COP0 inverted (R99). -/
theorem decodeCop0_inv {f : Fields} {i : Instr} (hop : f.op = 0x10) (h : decodeCop0 f = .ok i) :
    EncodesTo i f := by
  have hsel : ∀ fn : BitVec 6, fn.extractLsb' 3 3 = 0 → 0#3 ++ fn.extractLsb' 0 3 = fn := by decide
  unfold decodeCop0 at h
  split at h
  next hco => exact decodeCo_inv hop hco h
  next =>
    obtain ⟨op, rs, rt, rd, sa, fn⟩ := f
    simp only at hop h
    subst hop
    split at h
    case h_1 | h_2 => -- MFC0 and MTC0
      refine .of_ifZero h ?_
      simp only [Bool.and_eq_true, beq_iff_eq, and_imp]
      rintro rfl hfn
      exact ⟨rfl, congrArg (fun v => some (Fields.mk _ _ rt rd _ v)) (hsel fn hfn)⟩
    case h_4 => -- EI and DI
      split at h
      next hei =>
        obtain rfl := eq_of_beq hei
        exact .of_ifZero h (by simp only [Bool.and_eq_true, beq_iff_eq, and_imp]; intros; subst_vars; exact ⟨rfl, rfl⟩)
      next =>
        exact .of_ifZero h (by simp only [Bool.and_eq_true, beq_iff_eq, and_imp]; intros; subst_vars; exact ⟨rfl, rfl⟩)
    case h_6 => cases h
    all_goals
      exact .of_ifZero h (by simp only [Bool.and_eq_true, beq_iff_eq, and_imp]; intros; subst_vars; exact ⟨rfl, rfl⟩)

/-- What the opcode maps answer for the fields of a word. -/
theorem decodeFields_inv {f : Fields} {i : Instr} (h : decodeFields f = .ok i) : EncodesTo i f := by
  have himm : Fields.ofImm f.op f.rs f.rt f.imm = f := f.ofImm_of_imm
  unfold decodeFields at h
  split at h
  case h_1 hop => exact decodeSpecial_inv hop h
  case h_2 hop => exact decodeRegimm_inv hop h
  case h_17 hop => exact decodeCop0_inv hop h
  case h_25 hop => exact decodeSpecial2_inv hop h
  case h_27 hop => exact decodeSpecial3_inv hop h
  case h_3 hop | h_4 hop => -- J and JAL
    have hindex := f.ofIndex_of_index
    rw [hop] at hindex
    cases h; exact ⟨rfl, congrArg some hindex⟩
  case h_5 hop => -- B, and BEQ for the other registers
    rw [hop] at himm
    split at h
    next hb =>
      simp only [Bool.and_eq_true, beq_iff_eq] at hb
      rw [hb.1, hb.2] at himm
      cases h; exact ⟨rfl, congrArg some himm⟩
    next hb => cases h; exact ⟨congrArg (!·) (eq_false_of_ne_true hb), congrArg some himm⟩
  case h_7 hop | h_8 hop | h_23 hop | h_24 hop => -- the branches that compare with zero
    refine .of_ifZero h fun hrt => ?_
    rw [hop, eq_of_beq hrt] at himm
    exact ⟨rfl, congrArg some himm⟩
  case h_16 hop => -- LUI
    refine .of_ifZero h fun hrs => ?_
    rw [hop, eq_of_beq hrs] at himm
    exact ⟨rfl, congrArg some himm⟩
  case h_18 | h_19 | h_20 | h_26 | h_40 | h_42 | h_43 | h_44 | h_45 | h_46 | h_48 | h_49 | h_50 | h_51 | h_52 => cases h
  all_goals -- the other words of the I-type
    rename_i hop
    rw [hop] at himm
    cases h; exact ⟨rfl, congrArg some himm⟩

/-- A 16-bit instruction encodes to its halfword. -/
theorem decodeShort_inv {f : HalfFields} {i : Instr} (h : decodeShort f = .ok i) :
    i.wellFormed = true ∧ encode i = .half f.toHalf := by
  obtain ⟨major, rx, low⟩ := f
  unfold decodeShort at h
  simp only at h
  split at h
  case h_1 | h_2 => cases h; exact ⟨rfl, rfl⟩
  case h_3 => -- SAVE and RESTORE
    have hlow : ∀ low : BitVec 8, low = frameByte (low.getLsbD 7) (low.getLsbD 6) (low.getLsbD 5) (low.getLsbD 4)
        (low.extractLsb' 0 4) := by decide
    split at h
    next => cases h
    next hrx =>
      obtain rfl : rx = 4 := by simpa using hrx
      split at h
      next hs =>
        cases h
        exact ⟨rfl, congrArg (fun b => Code.half (HalfFields.toHalf ⟨0x0C, 4, b⟩)) (hs ▸ (hlow low).symm)⟩
      next hs =>
        cases h
        exact ⟨rfl, congrArg (fun b => Code.half (HalfFields.toHalf ⟨0x0C, 4, b⟩))
          ((eq_false_of_ne_true hs) ▸ (hlow low).symm)⟩
  case h_4 =>
    split at h
    case h_3 => -- JRC ra
      split at h
      next hrx => cases h; exact ⟨rfl, by rw [eq_of_beq hrx]; rfl⟩
      next => cases h
    case h_6 => cases h
    all_goals cases h; exact ⟨rfl, rfl⟩
  case h_5 => cases h

/-- An EXTEND pair is put together from its major opcodes, its register field and its immediate. -/
theorem extended_of_fields {first second : Half} (hext : first.extractLsb' 11 5 = 0x1E)
    (hzero : (HalfFields.ofHalf second).low.extractLsb' 5 3 = 0) :
    encodeExtended (HalfFields.ofHalf second).major (HalfFields.ofHalf second).rx (extendImm first second) =
      .extended first second := by
  have hext' : 0x1E#5 = first.extractLsb' 11 5 := hext.symm
  have hzero' : 0#3 = (HalfFields.ofHalf second).low.extractLsb' 5 3 := hzero.symm
  rw [encodeExtended, hext', hzero']
  congr 1 <;>
    (apply BitVec.eq_of_getLsbD_eq; intro i hi
     simp only [HalfFields.ofHalf, extendImm, BitVec.getLsbD_extractLsb', BitVec.getLsbD_append]
     interval_cases i <;> simp)

/-- What follows an EXTEND halfword encodes to the pair. -/
theorem decodeExtended_inv {first second : Half} {i : Instr} (hext : first.extractLsb' 11 5 = 0x1E)
    (h : decodeExtended first second = .ok i) : i.wellFormed = true ∧ encode i = .extended first second := by
  have hpair := extended_of_fields hext (second := second)
  unfold decodeExtended at h
  simp only at h
  split at h
  case h_1 hmajor | h_2 hmajor =>
    rw [hmajor] at hpair
    unfold ifZero at h
    split at h
    next hzero => cases h; exact ⟨rfl, hpair (eq_of_beq hzero)⟩
    next => cases h
  case h_3 => split at h <;> cases h
  case h_4 => cases h

/-- Settles O2, by the inverses of the opcode maps. -/
theorem encodeDecode : Obligations.EncodeDecode := by
  refine ⟨?word, ?half, ?extended⟩
  case word =>
    intro w i h
    obtain ⟨hwf, henc⟩ := decodeFields_inv h
    exact ⟨hwf, by rw [encode, henc]; exact congrArg Code.word (Fields.toWord_ofWord w)⟩
  case half =>
    intro h i hd
    obtain ⟨hwf, henc⟩ := decodeShort_inv hd
    exact ⟨hwf, by rw [henc, HalfFields.toHalf_ofHalf]⟩
  case extended =>
    intro first second i hext h
    rw [decode16, if_pos (beq_iff_eq.mpr hext)] at h
    exact decodeExtended_inv hext h

/-- Settles O3: each word is cut into its fields and looked up in the opcode maps. -/
theorem decodedWords : Obligations.DecodedWords := by
  unfold Obligations.DecodedWords
  decide

end Sys2Proof
end

section
/-! PROOFS. What a step and an instruction can do, said once: the work an instruction does on the state, the ways it
ends, and the ways a step ends. Every invariant of the machine is derived from these. -/

namespace Sys2Proof.Machine

/-! ## The work of an instruction and its end -/

/-- The MIPS16e rows: no word encodes them. -/
def compactRow (i : Instr) : Bool := (encodeFields i).isNone

/-- Status with its IE bit written, and the hazard that leaves (R304, R305). -/
def State.withInterruptEnable (s : State) (enable : Bool) : State :=
  (s.setCp0 { s.cp0 with status := setBit s.cp0.status 0 enable }).setHz
    (noteHazard s.hz .status s.cp0.status (setBit s.cp0.status 0 enable))

/-- u is s after some of the updates that instruction i makes before control goes on. -/
inductive Work (i : Instr) (s : State) : State → Prop where
  | start : Work i s s
  | reg {u : State} (set : BitVec 4) (r : Reg) (v : Word) : Work i s u → Work i s (u.setSreg set r v)
  | hiLo {u : State} (hi lo : Option Word) (unread : Bool) : Work i s u → Work i s (u.setHiLo hi lo unread)
  | link {u : State} (a : Word) : Work i s u → Work i s (u.setLink true a)
  | clearHazards {u : State} : Work i s u → Work i s (u.setHz { u.hz with hazard := [] })
  | store {u : State} {pa : Nat} {bs : List Byte} : storing i = true → pa + bs.length ≤ 4294967296 → Work i s u →
      Work i s (u.storeBytes pa bs)
  | cp0 (r : CpReg) (x : Word) : s.cop0Usable = true → s.writeFault r (s.written r x) = none →
      Work i s (s.writeCp0 r x)
  | enable (b : Bool) : s.cop0Usable = true → Work i s (s.withInterruptEnable b)

/-- How instruction i, begun in s and its updates done in u, ends with a next state. -/
inductive Ends (i : Instr) (s u : State) : State → Prop where
  | next : compactRow i = false → Ends i s u u.advance
  | wait : compactRow i = false → s.cop0Usable = true → s.flow.inDs = false →
      Ends i s u { u.advance with waiting := true }
  | next16 (len : Word) : compactRow i = true → len = 2 ∨ len = 4 → Ends i s u (u.advance16 len)
  | slot (target : Word) (isa : Bool) (h : Hazards) : compactRow i = false → s.flow.inDs = false →
      (bit s.flow.pc 0 = false → bit s.flow.npc 0 = false → bit target 0 = false) →
      h = u.hz ∨ h = { u.hz with hbPending := true } →
      Ends i s u ((u.setHz h).setFlow ⟨u.flow.npc, target, isa, true, u.flow.npcIsa⟩)
  | skip : compactRow i = false → s.flow.inDs = false →
      Ends i s u (u.setFlow ⟨u.flow.npc + 4, u.flow.npc + 8, u.flow.npcIsa, false, u.flow.npcIsa⟩)
  | compactJump (word : Word) : s.flow.inDs = false → Ends i s u (u.returnTo word)
  | eret : s.cop0Usable = true → s.flow.inDs = false → Ends i s u (returnFromException u)
  | deret : s.cop0Usable = true → s.flow.inDs = false → Ends i s u (returnFromDebug u)
  | raise {t : State} (e : Exc) : takeException e u = .next t → Ends i s u t

/-- The outcome is one that instruction i can have in s. -/
def Does (i : Instr) (s : State) (o : Out) : Prop := ∀ t, o = .next t → ∃ u, Work i s u ∧ Ends i s u t

/-! ## What the work leaves unchanged -/

@[simp] theorem State.writeCp0_flow (s : State) (r : CpReg) (x : Word) : (s.writeCp0 r x).flow = s.flow := by
  unfold State.writeCp0; split <;> rfl
@[simp] theorem State.writeCp0_regs (s : State) (r : CpReg) (x : Word) : (s.writeCp0 r x).regs = s.regs := by
  unfold State.writeCp0; split <;> rfl
@[simp] theorem State.writeCp0_hi (s : State) (r : CpReg) (x : Word) : (s.writeCp0 r x).hi = s.hi := by
  unfold State.writeCp0; split <;> rfl
@[simp] theorem State.writeCp0_lo (s : State) (r : CpReg) (x : Word) : (s.writeCp0 r x).lo = s.lo := by
  unfold State.writeCp0; split <;> rfl
@[simp] theorem State.writeCp0_hiloUnread (s : State) (r : CpReg) (x : Word) :
    (s.writeCp0 r x).hiloUnread = s.hiloUnread := by
  unfold State.writeCp0; split <;> rfl
@[simp] theorem State.writeCp0_llBit (s : State) (r : CpReg) (x : Word) : (s.writeCp0 r x).llBit = s.llBit := by
  unfold State.writeCp0; split <;> rfl
@[simp] theorem State.writeCp0_llAddr (s : State) (r : CpReg) (x : Word) : (s.writeCp0 r x).llAddr = s.llAddr := by
  unfold State.writeCp0; split <;> rfl
@[simp] theorem State.writeCp0_waiting (s : State) (r : CpReg) (x : Word) : (s.writeCp0 r x).waiting = s.waiting := by
  unfold State.writeCp0; split <;> rfl
@[simp] theorem State.writeCp0_port (s : State) (r : CpReg) (x : Word) : (s.writeCp0 r x).port = s.port := by
  unfold State.writeCp0; split <;> rfl
@[simp] theorem State.writeCp0_stepped (s : State) (r : CpReg) (x : Word) : (s.writeCp0 r x).stepped = s.stepped := by
  unfold State.writeCp0; split <;> rfl
@[simp] theorem State.writeCp0_platform (s : State) (r : CpReg) (x : Word) :
    (s.writeCp0 r x).platform = s.platform := by
  unfold State.writeCp0; split <;> rfl
@[simp] theorem State.writeCp0_inputs (s : State) (r : CpReg) (x : Word) : (s.writeCp0 r x).inputs = s.inputs := by
  unfold State.writeCp0; split <;> rfl
@[simp] theorem State.writeCp0_draws (s : State) (r : CpReg) (x : Word) : (s.writeCp0 r x).draws = s.draws := by
  unfold State.writeCp0; split <;> rfl
@[simp] theorem State.writeCp0_mem (s : State) (r : CpReg) (x : Word) : (s.writeCp0 r x).mem = s.mem := by
  unfold State.writeCp0; split <;> rfl

/-- The registers with one of them stored, and Compare's write clearing Cause.TI. -/
theorem State.writeCp0_cp0 (s : State) (r : CpReg) (x : Word) :
    (s.writeCp0 r x).cp0 =
      if r = .compare then { s.cp0.store r (s.written r x) with cause := setBit s.cp0.cause 30 false }
      else s.cp0.store r (s.written r x) := by
  unfold State.writeCp0
  split
  next hr => subst hr; rfl
  next => rfl

@[simp] theorem noteHazard_hbPending (h : Hazards) (r : CpReg) (old new : Word) :
    (noteHazard h r old new).hbPending = h.hbPending := by
  simp only [noteHazard]; split <;> split <;> rfl

@[simp] theorem noteHazard_staleText (h : Hazards) (r : CpReg) (old new : Word) :
    (noteHazard h r old new).staleText = h.staleText := by
  simp only [noteHazard]; split <;> split <;> rfl

@[simp] theorem State.writeCp0_hbPending (s : State) (r : CpReg) (x : Word) :
    (s.writeCp0 r x).hz.hbPending = s.hz.hbPending := by
  unfold State.writeCp0
  split
  next => rw [State.setHz_hz]; split <;> simp
  next => simp

section
variable {i : Instr} {s u t : State}

theorem Work.flow (h : Work i s u) : u.flow = s.flow := by
  induction h with
  | start | enable => rfl
  | reg _ _ _ _ ih | hiLo _ _ _ _ ih | link _ _ ih | store _ _ _ ih | clearHazards _ ih => simpa using ih
  | cp0 r x => simp

theorem Work.waiting (h : Work i s u) : u.waiting = s.waiting := by
  induction h with
  | start | enable => rfl
  | reg _ _ _ _ ih | hiLo _ _ _ _ ih | link _ _ ih | store _ _ _ ih | clearHazards _ ih => simpa using ih
  | cp0 r x => simp

theorem Work.platform (h : Work i s u) : u.platform = s.platform := by
  induction h with
  | start | enable => rfl
  | reg _ _ _ _ ih | hiLo _ _ _ _ ih | link _ _ ih | store _ _ _ ih | clearHazards _ ih => simpa using ih
  | cp0 r x => simp

/-- No update begins or ends the wait for the barrier of JR.HB. -/
theorem Work.hbPending (h : Work i s u) : u.hz.hbPending = s.hz.hbPending := by
  induction h with
  | start => rfl
  | reg _ _ _ _ ih | hiLo _ _ _ _ ih | link _ _ ih | store _ _ _ ih | clearHazards _ ih => simpa using ih
  | cp0 r x => simp
  | enable b => simp [State.withInterruptEnable]

/-- The stores alone write memory. -/
theorem Work.mem (h : Work i s u) (hi : storing i = false) : u.mem = s.mem := by
  induction h with
  | start | enable => rfl
  | reg _ _ _ _ ih | hiLo _ _ _ _ ih | link _ _ ih | clearHazards _ ih => simpa using ih
  | store hstore => rw [hi] at hstore; cases hstore
  | cp0 r x => simp

/-- A coprocessor 0 register other than LLAddr is changed only with access to it. -/
theorem Work.cp0_of_not_usable (h : Work i s u) (hu : s.cop0Usable = false) : u.cp0 = s.cp0 := by
  induction h with
  | start => rfl
  | reg _ _ _ _ ih | hiLo _ _ _ _ ih | link _ _ ih | store _ _ _ ih | clearHazards _ ih => simpa using ih
  | cp0 r x husable => rw [hu] at husable; cases husable
  | enable b husable => rw [hu] at husable; cases husable

/-- Memory is canonical after every update. -/
theorem Work.canonical (h : Work i s u) (hs : s.canonical) : u.canonical := by
  induction h with
  | start => exact hs
  | reg _ _ _ _ ih | hiLo _ _ _ _ ih | link _ _ ih | clearHazards _ ih => simpa [State.canonical] using ih
  | store _ hbound _ ih => exact State.storeBytes_wf ih hbound
  | cp0 r x => simpa [State.canonical] using hs
  | enable b => exact hs

/-- Memory is what the updates left. -/
theorem Ends.mem (h : Ends i s u t) : t.mem = u.mem := by
  cases h with
  | raise e he =>
    obtain ⟨_, _, _, _, hmem, _⟩ := takeException_frame he
    exact hmem
  | next | wait | next16 | slot | skip | compactJump | eret | deret => rfl

end

/-! ## The shared operations -/

section
variable {i : Instr} {s u : State}

theorem Work.setReg (r : Reg) (v : Word) (h : Work i s u) : Work i s (u.setReg r v) := h.reg _ r v

theorem Work.inDs (h : Work i s u) : u.flow.inDs = s.flow.inDs := congrArg Flow.inDs h.flow

theorem Does.fault (f : Fault) : Does i s (.fault f) := fun _ h => nomatch h

theorem Does.refused (r : Refusal) : Does i s (.refused r) := fun _ h => nomatch h

theorem Does.of_next {t : State} (h : Work i s u) (he : Ends i s u t) : Does i s (.next t) :=
  fun _ ht => by cases ht; exact ⟨u, h, he⟩

theorem Does.raise (e : Exc) (h : Work i s u) : Does i s (takeException e u) := fun _ ht => ⟨u, h, .raise e ht⟩

theorem Does.retire (hc : compactRow i = false) (h : Work i s u) : Does i s (retire u) := .of_next h (.next hc)

theorem Does.writeReg (hc : compactRow i = false) (rd : Reg) (v : Word) (h : Work i s u) :
    Does i s (writeReg rd v u) := .retire hc (h.setReg rd v)

theorem Does.retire16 (hc : compactRow i = true) {len : Word} (hl : len = 2 ∨ len = 4) (h : Work i s u) :
    Does i s (retire16 len u) := .of_next h (.next16 len hc hl)

theorem Does.ite {c : Prop} [Decidable c] {a b : Out} (ha : Does i s a) (hb : Does i s b) :
    Does i s (if c then a else b) := by split <;> assumption

theorem Does.attempt {α : Type} {x : Except Stop α} {k : α → Out} (h : Work i s u)
    (hk : ∀ a, x = .ok a → Does i s (k a)) : Does i s (attempt x u k) := by
  intro t ht
  rcases attempt_next ht with ⟨a, hx, ha⟩ | ⟨e, _, he⟩
  · exact hk a hx t ha
  · exact ⟨u, h, .raise e he⟩

theorem Does.withValue {α : Type} {x : Option α} {k : α → Out} (hk : ∀ a, Does i s (k a)) :
    Does i s (withValue x k) := by
  intro t ht
  obtain ⟨a, _, ha⟩ := withValue_next ht
  exact hk a t ha

theorem Does.withCop0 {k : Out} (hk : s.cop0Usable = true → Does i s k) : Does i s (withCop0 s k) := by
  rcases withCop0_cases s k with ⟨hu, he⟩ | ⟨_, he⟩ <;> rw [he]
  · exact hk hu
  · exact .raise _ .start

theorem Does.outsideSlot {k : Out} (h : Work i s u) (hk : s.flow.inDs = false → Does i s k) :
    Does i s (outsideSlot u k) := by
  intro t ht
  obtain ⟨hds, hkt⟩ := outsideSlot_next ht
  exact hk (h.inDs ▸ hds) t hkt

theorem Does.writeUnlessOverflow (hc : compactRow i = false) (rd : Reg) (v : BitVec 33) :
    Does i s (writeUnlessOverflow rd v s) := .ite (.raise _ .start) (.writeReg hc _ _ .start)

theorem Does.trapWhen (hc : compactRow i = false) (c : Bool) : Does i s (trapWhen c s) :=
  .ite (.raise _ .start) (.retire hc .start)

theorem Does.loadTo (hc : compactRow i = false) (rt : Reg) (ea : Word) (n : Nat) (extend : Word → Word) :
    Does i s (loadTo rt ea n extend s) := .attempt .start fun _ _ => .writeReg hc _ _ .start

/-- A store that completes writes within the address space. -/
theorem Work.memWrite {t : State} {va v : Word} {n : Nat} (hi : storing i = true) (hn : n = 1 ∨ n = 2 ∨ n = 4)
    (h : Work i s u) (hw : u.memWrite va n v = .ok t) : Work i s t := by
  obtain ⟨hal, pa, hp, rfl⟩ := State.memWrite_ok hw
  refine h.store hi ?_
  rw [inByteOrder_length, splitBytes_length]
  exact State.place_bound hp (aligned_in_word hal hn)

theorem Does.storeFrom (hc : compactRow i = false) (hi : storing i = true) (rt : Reg) (ea : Word) {n : Nat}
    (hn : n = 1 ∨ n = 2 ∨ n = 4) : Does i s (storeFrom rt ea n s) :=
  .attempt .start fun _ hw => .retire hc (.memWrite hi hn .start hw)

/-! ### The parts of an unaligned word lie in it -/

theorem toNat_field_two (ea : Word) : (field ea 0 2).toNat = ea.toNat % 4 := by
  rw [field_low _ (by omega), BitVec.toNat_setWidth]

theorem toNat_alignWord_mod (ea : Word) : (alignWord ea).toNat % 4 = 0 := by
  have h : (alignWord ea).setWidth 2 = 0 := by
    apply BitVec.eq_of_getLsbD_eq; intro k hk
    simp only [alignWord, BitVec.getLsbD_setWidth, BitVec.getLsbD_and]
    interval_cases k <;> simp
  simpa using congrArg BitVec.toNat h

theorem leftStart_in_word (b : Bool) (ea : Word) : (leftStart b ea).toNat % 4 + leftCount b ea ≤ 4 := by
  have halign := toNat_alignWord_mod ea
  have hfield := toNat_field_two ea
  cases b <;> simp only [leftStart, leftCount, Bool.false_eq_true, if_true, if_false] <;> omega

theorem rightStart_in_word (b : Bool) (ea : Word) : (rightStart b ea).toNat % 4 + rightCount b ea ≤ 4 := by
  have halign := toNat_alignWord_mod ea
  have hfield := toNat_field_two ea
  cases b <;> simp only [rightStart, rightCount, Bool.false_eq_true, if_true, if_false] <;> omega

/-- An unaligned store that completes writes within the address space. -/
theorem Work.storeUnaligned {ea start v : Word} {n pa : Nat} (hi : storing i = true) (h : Work i s u)
    (hp : u.placeUnaligned .store ea start n = .ok pa) (hb : start.toNat % 4 + n ≤ 4) :
    Work i s (u.storeBytes pa (inByteOrder u.bigEndian (splitBytes v n))) := by
  refine h.store hi ?_
  rw [inByteOrder_length, splitBytes_length]
  exact State.place_bound (State.placeUnaligned_ok hp) hb

/-! ### Targets are even -/

theorem bit_zero_eq (w : Word) : bit w 0 = decide (w.toNat % 2 = 1) := by
  simp [bit, BitVec.getLsbD, Nat.testBit_zero]

theorem bit_one_eq (w : Word) : bit w 1 = decide (w.toNat / 2 % 2 = 1) := by
  simp [bit, BitVec.getLsbD, Nat.testBit_succ, Nat.testBit_zero]

/-- The sum of two even words is even. -/
theorem bit_zero_add {v w : Word} (hv : bit v 0 = false) (hw : bit w 0 = false) : bit (v + w) 0 = false := by
  rw [bit_zero_eq, decide_eq_false_iff_not] at *
  rw [BitVec.toNat_add]; omega

theorem bit_branchTarget {s : State} (offset : Half) (h : bit s.flow.pc 0 = false) :
    bit (s.branchTarget offset) 0 = false := by
  refine bit_zero_add (bit_zero_add h (by decide)) ?_
  rw [bit, sext, BitVec.getLsbD_signExtend, BitVec.getLsbD_append]; rfl

theorem bit_jumpTarget (s : State) (index : BitVec 26) : bit (s.jumpTarget index) 0 = false := by
  rw [bit, State.jumpTarget, BitVec.getLsbD_append]; rfl

theorem bit_withIsaBit (w : Word) : bit (withIsaBit w false) 0 = false := bit_setBit w 0 0 false (by omega)

/-! ### Branches and jumps -/

theorem Does.branchOn (hc : compactRow i = false) (c : Bool) (offset : Half) (h : Work i s u) :
    Does i s (branchOn c offset u) := by
  refine .outsideSlot h fun hds => .of_next h (.slot _ _ u.hz hc hds (fun hpc hnpc => ?_) (.inl rfl))
  split
  · exact bit_branchTarget offset (h.flow ▸ hpc)
  · exact bit_zero_add (h.flow ▸ hnpc) (by decide)

theorem Does.likelyOn (hc : compactRow i = false) (c : Bool) (offset : Half) (h : Work i s u) :
    Does i s (likelyOn c offset u) := by
  refine .outsideSlot h fun hds => .ite (.of_next h (.slot _ _ u.hz hc hds (fun hpc _ => ?_) (.inl rfl)))
    (.of_next h (.skip hc hds))
  exact bit_branchTarget offset (h.flow ▸ hpc)

theorem Does.linkFrom {rs : Reg} {k : Out} (hk : Does i s k) : Does i s (linkFrom rs k) := .ite (.fault _) hk

theorem Work.linked (h : Work i s u) : Work i s u.linked := h.setReg _ _

/-- J and JAL. -/
theorem Does.jumpTo (hc : compactRow i = false) (index : BitVec 26) (isa : Bool) (h : Work i s u) :
    Does i s (Machine.outsideSlot s (Machine.jumpTo (s.jumpTarget index) isa u)) :=
  .outsideSlot .start fun hds =>
    .of_next h (.slot _ _ u.hz hc hds (fun _ _ => bit_jumpTarget s index) (.inl rfl))

/-- JR and JALR, and with the barrier JR.HB and JALR.HB. -/
theorem Does.jumpToWord (hc : compactRow i = false) (v : Word) (hds : s.flow.inDs = false) (h : Work i s u) :
    Does i s (jumpToWord v u) :=
  .of_next h (.slot _ _ u.hz hc hds (fun _ _ => bit_withIsaBit v) (.inl rfl))

theorem Does.jumpToWord_barrier (hc : compactRow i = false) (v : Word) (hds : s.flow.inDs = false) (h : Work i s u) :
    Does i s (Machine.jumpToWord v u.setBarrier) :=
  .of_next h (.slot _ _ { u.hz with hbPending := true } hc hds (fun _ _ => bit_withIsaBit v) (.inr rfl))

/-! ### Coprocessor 0 -/

theorem Does.waitOperation (hc : compactRow i = false) : Does i s (waitOperation s) :=
  .outsideSlot .start fun hds => .withCop0 fun hu => .of_next .start (.wait hc hu hds)

theorem Does.eretOperation : Does i s (eretOperation s) :=
  .outsideSlot .start fun hds => .withCop0 fun hu => .of_next .start (.eret hu hds)

theorem Does.deretOperation : Does i s (deretOperation s) :=
  .outsideSlot .start fun hds => .withCop0 fun hu => .ite (.of_next .start (.deret hu hds)) (.raise _ .start)

theorem Does.mtc0 (hc : compactRow i = false) (rt : Reg) (rd : BitVec 5) (sel : BitVec 3) :
    Does i s (execMtc0 rt rd sel s) := by
  refine .withCop0 fun hu => ?_
  split
  next r _ =>
    split
    next => exact .fault _
    next hf => exact .retire hc (.cp0 r _ hu hf)
  next => exact .retire hc .start

theorem Does.setInterruptEnable (hc : compactRow i = false) (b : Bool) (rt : Reg) :
    Does i s (setInterruptEnable b rt s) := .withCop0 fun hu => .writeReg hc _ _ (.enable b hu)

/-! ### Stack frames -/

theorem Does.pushReg (hi : storing i = true) (wanted : Bool) (r : Reg) (a : Word) {k : Word → State → Out}
    (h : Work i s u) (hk : ∀ a u, Work i s u → Does i s (k a u)) : Does i s (pushReg wanted r a u k) :=
  .ite (.attempt h fun _ hw => hk _ _ (h.memWrite hi (by omega) hw)) (hk a u h)

theorem Does.popReg (wanted : Bool) (r : Reg) (a : Word) {k : Word → State → Out} (h : Work i s u)
    (hk : ∀ a u, Work i s u → Does i s (k a u)) : Does i s (popReg wanted r a u k) :=
  .ite (.attempt h fun v _ => hk _ _ (h.setReg r v)) (hk a u h)

theorem Does.save (hc : compactRow i = true) (hi : storing i = true) (ra s0 s1 : Bool) (n : BitVec 4) :
    Does i s (execSave ra s0 s1 n s) := by
  refine .pushReg hi ra 31 (s.reg 29) .start fun a₁ u₁ h₁ => ?_
  refine .pushReg hi s1 17 a₁ h₁ fun a₂ u₂ h₂ => ?_
  exact .pushReg hi s0 16 a₂ h₂ fun _ _ h₃ => .retire16 hc (.inl rfl) (h₃.setReg 29 _)

theorem Does.restore (hc : compactRow i = true) (ra s0 s1 : Bool) (n : BitVec 4) :
    Does i s (execRestore ra s0 s1 n s) := by
  unfold execRestore
  refine .popReg ra 31 (s.reg 29 + frameBytes n) .start fun a₁ u₁ h₁ => ?_
  refine .popReg s1 17 a₁ h₁ fun a₂ u₂ h₂ => ?_
  exact .popReg s0 16 a₂ h₂ fun _ _ h₃ => .retire16 hc (.inl rfl) (h₃.setReg 29 _)

theorem pcLength_eq (imm : PcImm) : pcLength imm = 2 ∨ pcLength imm = 4 := by
  cases imm
  · exact .inl rfl
  · exact .inr rfl

end

/-! ## Every instruction -/

theorem exec_does (i : Instr) (s : State) : Does i s (exec i s) := by
  cases i with
  | add | addi | sub => exact .writeUnlessOverflow rfl _ _
  | addiu | addu | subu | and | andi | or | ori | xor | xori | nor | lui | slt | slti | sltiu | sltu | seb | seh | wsbh
  | sll | sllv | srl | srlv | sra | srav | rotr | rotrv => exact .writeReg rfl _ _ .start
  | clo | clz | ext | ins => exact .ite (.writeReg rfl _ _ .start) (.fault _)
  | movn | movz => exact .ite (.writeReg rfl _ _ .start) (.retire rfl .start)
  | nop | ssnop | sync => exact .retire rfl .start
  | ehb => exact .retire rfl (.clearHazards .start)
  | mult | multu | mthi | mtlo => exact .retire rfl (.hiLo _ _ _ .start)
  | mul => exact .writeReg rfl _ _ (.hiLo _ _ _ .start)
  | madd | maddu | msub | msubu => exact .withValue fun _ => .retire rfl (.hiLo _ _ _ .start)
  | div | divu => exact .ite (.retire rfl (.hiLo _ _ _ .start)) (.retire rfl (.hiLo _ _ _ .start))
  | mfhi | mflo => exact .withValue fun _ => .writeReg rfl _ _ (.hiLo _ _ _ .start)
  | b | beq | bne | bgez | bgtz | blez | bltz => exact .branchOn rfl _ _ .start
  | bal => exact .branchOn rfl _ _ (.linked .start)
  | bgezal | bltzal => exact .linkFrom (.branchOn rfl _ _ (.linked .start))
  | beql | bnel | bgezl | bgtzl | blezl | bltzl => exact .likelyOn rfl _ _ .start
  | bgezall | bltzall => exact .linkFrom (.likelyOn rfl _ _ (.linked .start))
  | j => exact .jumpTo rfl _ _ .start
  | jal => exact .jumpTo rfl _ _ (.linked .start)
  | jr => exact .outsideSlot .start fun hds => .jumpToWord rfl _ hds .start
  | jrHb => exact .outsideSlot .start fun hds => .jumpToWord_barrier rfl _ hds .start
  | jalr => exact .ite (.fault _) (.outsideSlot .start fun hds => .jumpToWord rfl _ hds (.setReg _ _ .start))
  | jalrHb => exact .ite (.fault _) (.outsideSlot .start fun hds => .jumpToWord_barrier rfl _ hds (.setReg _ _ .start))
  | lb | lbu | lh | lhu | lw => exact .loadTo rfl _ _ _ _
  | lwl | lwr => exact .attempt .start fun _ _ => .writeReg rfl _ _ .start
  | sb | sh | sw => exact .storeFrom rfl rfl _ _ (by omega)
  | swl => exact .attempt .start fun _ hp => .retire rfl (.storeUnaligned rfl .start hp (leftStart_in_word _ _))
  | swr => exact .attempt .start fun _ hp => .retire rfl (.storeUnaligned rfl .start hp (rightStart_in_word _ _))
  | ll => exact .attempt .start fun _ _ => .writeReg rfl _ _ (.link _ .start)
  | sc =>
    exact .ite (.raise _ .start) (.ite (.writeReg rfl _ _ .start) (.ite (.fault _)
      (.attempt .start fun _ hw => .writeReg rfl _ _ (.memWrite rfl (by omega) .start hw))))
  | syscall | break_ | sdbbp => exact .raise _ .start
  | teq | tne | tge | tgeu | tlt | tltu | teqi | tnei | tgei | tgeiu | tlti | tltiu => exact .trapWhen rfl _
  | wait => exact .waitOperation rfl
  | cop0 =>
    exact .ite (.waitOperation rfl) (.ite .eretOperation (.ite .deretOperation
      (.withCop0 fun _ => .ite (.refused _) (.raise _ .start))))
  | mfc0 rt rd sel =>
    refine .withCop0 fun _ => ?_
    split <;> exact .writeReg rfl _ _ .start
  | mtc0 => exact .mtc0 rfl _ _ _
  | di | ei => exact .setInterruptEnable rfl _ _
  | eret => exact .eretOperation
  | deret => exact .deretOperation
  | rdhwr => exact .ite (.writeReg rfl _ _ .start) (.raise _ .start)
  | rdpgpr => exact .withCop0 fun _ => .writeReg rfl _ _ .start
  | wrpgpr => exact .withCop0 fun _ => .retire rfl (.reg _ _ _ .start)
  | addiupc rx imm => exact .retire16 rfl (pcLength_eq imm) (.setReg _ _ .start)
  | lwpc rx imm => exact .attempt .start fun _ _ => .retire16 rfl (pcLength_eq imm) (.setReg _ _ .start)
  | jalrc => exact .outsideSlot .start fun hds => .of_next (.setReg _ _ .start) (.compactJump _ hds)
  | jrc target =>
    refine .outsideSlot .start fun hds => ?_
    cases target <;> exact .of_next .start (.compactJump _ hds)
  | save => exact .save rfl rfl _ _ _ _
  | restore => exact .restore rfl _ _ _ _
  | zeb | zeh => exact .retire16 rfl (.inl rfl) (.setReg _ _ .start)

/-- What instruction i can do: its updates, and one of the ends. -/
theorem exec_next {i : Instr} {s t : State} (h : exec i s = .next t) : ∃ u, Work i s u ∧ Ends i s u t :=
  exec_does i s t h

/-- Settles O54: no update but a store and no end writes memory. -/
theorem onlyStoresChangeMemory : Obligations.OnlyStoresChangeMemory := by
  intro i s t hi h
  obtain ⟨u, hwork, hends⟩ := exec_next h
  rw [hends.mem, hwork.mem hi]

end Sys2Proof.Machine
end

section
/-! PROOFS. What a step can do, and the invariants that every step keeps: memory canonical, the flow of control legal,
the 
register sets legal, the constant bits of coprocessor 0. -/

namespace Sys2Proof.Machine

/-! ## The step -/

/-- An event that is taken answers one of the entries. -/
theorem State.eventTaken_next {u : State} {i : StepInput} {t : State} (h : u.eventTaken i = some (.next t)) :
    t = coldReset u ∨ (∃ soft, t = enterResetClass soft u) ∨ (∃ c, t = enterDebug c u) ∨
      takeException .interrupt u = .next t := by
  unfold State.eventTaken at h
  split at h
  next => cases h; exact .inl rfl
  next =>
  split at h
  next => cases h; exact .inr (.inl ⟨_, rfl⟩)
  next =>
  split at h
  next => cases h; exact .inr (.inr (.inl ⟨_, rfl⟩))
  next =>
  split at h
  next => cases h; exact .inr (.inr (.inl ⟨_, rfl⟩))
  next =>
  split at h
  next => cases h; exact .inr (.inl ⟨_, rfl⟩)
  next =>
  split at h
  next => exact .inr (.inr (.inr (Option.some.inj h)))
  next => cases h

/-- An instruction runs, or its fetch raises an exception. -/
theorem runInstruction_next {s t : State} (h : runInstruction s = .next t) :
    (∃ i, s.fetchDecode = .ok i ∧ exec i s = .next t) ∨ ∃ e, takeException e s = .next t := by
  rcases attempt_next h with h | ⟨e, _, he⟩
  · exact .inl h
  · exact .inr ⟨e, he⟩

/-- What every part of a step keeps, the step keeps: the reading of the input, the end of a wait, the entries, and the
instruction that the fetch delivers. -/
theorem step_keeps {P : State → Prop} (hobserve : ∀ s, P s → P s.observe) (hbegin : ∀ s, P s → P s.begin)
    (hcold : ∀ s, P s → P (coldReset s)) (hreset : ∀ s soft, P s → P (enterResetClass soft s))
    (hdebug : ∀ s c, P s → P (enterDebug c s)) (hexc : ∀ e s t, P s → takeException e s = .next t → P t)
    (hexec : ∀ i s t, P s → s.waiting = false → s.fetchDecode = .ok i → exec i s = .next t → P t)
    {s t : State} (hs : P s) (h : step s = .next t) : P t := by
  have hu := hobserve s hs
  unfold step stepOn at h
  split at h
  next => cases h; exact hu
  next =>
    cases he : s.observe.eventTaken s.nextInput with
    | some o =>
      rw [he, Option.getD_some] at h
      rcases State.eventTaken_next (he.trans (congrArg some h)) with rfl | ⟨soft, rfl⟩ | ⟨c, rfl⟩ | hint
      · exact hcold _ hu
      · exact hreset _ soft hu
      · exact hdebug _ c hu
      · exact hexc _ _ _ hu hint
    | none =>
      rw [he, Option.getD_none] at h
      rcases runInstruction_next h with ⟨i, hf, hi⟩ | ⟨e, he⟩
      · exact hexec i _ t (hbegin _ hu) rfl hf hi
      · exact hexc e _ t (hbegin _ hu) he

/-! ## What the fetch delivers -/

theorem State.fetch_aligned {s : State} {va : Word} {n : Nat} {w : Word} (h : s.fetch va n = .ok w) :
    aligned va n = true := by
  unfold State.fetch at h
  split at h
  next ha => exact ha
  next => cases h

/-- An instruction that encodes to a halfword or to a pair of them has no word. -/
theorem compactRow_of_encode {i : Instr} {c : Code} (h : encode i = c) (hc : ∀ w, c ≠ .word w) :
    compactRow i = true := by
  unfold encode at h
  split at h
  next => exact absurd h.symm (hc _)
  next hn => rw [compactRow, hn]; rfl

theorem compactRow_of_decode32 {w : Word} {i : Instr} (h : decode32 w = .ok i) : compactRow i = false := by
  rw [compactRow, (decodeFields_inv h).2]; rfl

theorem compactRow_of_decode16 {h second : Half} {i : Instr} (hd : decode16 h second = .ok i) :
    compactRow i = true := by
  unfold decode16 at hd
  split at hd
  next hext => exact compactRow_of_encode (decodeExtended_inv (eq_of_beq hext) hd).2 (fun _ => nofun)
  next => exact compactRow_of_encode (decodeShort_inv hd).2 (fun _ => nofun)

/-- MIPS16e rows are delivered in MIPS16e mode, the others from a word-aligned pc in MIPS32 mode. -/
theorem State.fetchDecode_ok {s : State} {i : Instr} (h : s.fetchDecode = .ok i) :
    (s.flow.isaMode = true ∧ compactRow i = true) ∨
      (s.flow.isaMode = false ∧ compactRow i = false ∧ aligned s.flow.pc 4 = true) := by
  unfold State.fetchDecode at h
  split at h
  next hisa =>
    refine .inl ⟨hisa, ?_⟩
    unfold State.fetch16 at h
    split at h
    next => cases h
    next =>
      split at h
      next => cases h
      next =>
        split at h
        next => cases h
        next hd => cases h; exact compactRow_of_decode16 hd
  next hisa =>
    refine .inr ⟨eq_false_of_ne_true hisa, ?_⟩
    unfold State.fetch32 at h
    split at h
    next => cases h
    next hf =>
      split at h
      next => cases h
      next hd => cases h; exact ⟨compactRow_of_decode32 hd, State.fetch_aligned hf⟩

/-! ## Memory -/

/-- Settles O56: only a store writes memory, and its bytes lie in the address space. -/
theorem stepKeepsCanonical : Obligations.StepKeepsCanonical := by
  intro s t hs h
  refine step_keeps (P := State.canonical) (fun _ h => h) (fun _ h => h) (fun _ h => h) (fun _ _ h => h)
    (fun _ _ h => h) ?exc ?exec hs h
  case exc =>
    intro e s t hs he
    obtain ⟨_, _, _, _, hmem, _⟩ := takeException_frame he
    rwa [State.canonical, hmem]
  case exec =>
    intro i s t hs _ _ hi
    obtain ⟨u, hwork, hends⟩ := exec_next hi
    rw [State.canonical, hends.mem]
    exact hwork.canonical hs

/-! ## The flow of control -/

theorem bit_zero_add_instrStep {a : Word} (isa : Bool) (h : bit a 0 = false) : bit (a + instrStep isa) 0 = false :=
  bit_zero_add h (by cases isa <;> decide)

/-- Control at an even address outside a delay slot, the next instruction after it, no barrier pending. -/
theorem flowLegal_outside {t : State} {a : Word} {isa : Bool} (hf : t.flow = ⟨a, a + instrStep isa, isa, false, isa⟩)
    (ha : bit a 0 = false) (hb : t.hz.hbPending = false) : t.flowLegal := by
  unfold State.flowLegal
  rw [hf]
  exact ⟨ha, bit_zero_add_instrStep isa ha, fun _ => ⟨rfl, rfl⟩, nofun, fun _ => rfl, fun h => by rw [hb] at h; cases h⟩

/-- A property of every value that a consumer can see. -/
theorem State.viewed_of_forall {α : Type} [DecidableEq α] {p : α → Prop} (s : State) (r : CpReg) {f : Word → α}
    (h : ∀ w, p (f w)) : p (s.viewed r f) := by
  rcases s.viewed_cases r f with e | e <;> rw [e] <;> exact h _

theorem bit_debugVectorAddress (s : State) : bit s.debugVectorAddress 0 = false := by
  unfold State.debugVectorAddress; split <;> decide

theorem bit_vectorOffset (s : State) (e : Exc) : bit (s.vectorOffset e) 0 = false := by
  unfold State.vectorOffset
  split
  · decide
  split
  · decide
  split
  · decide
  split
  · decide
  refine bit_zero_add (by decide) ?_
  rw [bit_zero_eq, decide_eq_false_iff_not, BitVec.toNat_mul, BitVec.toNat_shiftLeft, Nat.shiftLeft_eq,
    Nat.mod_mod_of_dvd _ (by decide : 2 ∣ 2 ^ 32), Nat.mul_mod, Nat.mod_mod_of_dvd _ (by decide : 2 ∣ 2 ^ 32),
    show ∀ n, n * 2 ^ 5 % 2 = 0 from fun n => by omega]
  simp

/-- Every exception vector is even. -/
theorem bit_vectorAddress (s : State) (e : Exc) : bit (s.vectorAddress e) 0 = false := by
  have hbase :
      bit (if s.viewed .status statusBEV then Config.bevBase else s.viewed .ebase (· &&& 0xFFFFF000)) 0 = false := by
    split
    · decide
    · exact s.viewed_of_forall (p := fun w => bit w 0 = false) .ebase fun w => by simp [bit]
  have hsum := bit_zero_add hbase (bit_vectorOffset s e)
  rw [bit, State.vectorAddress, BitVec.getLsbD_append]
  simpa [bit] using hsum

theorem takeException_flowLegal {e : Exc} {s t : State} (h : takeException e s = .next t) : t.flowLegal := by
  rcases takeException_next h with ⟨_, rfl⟩ | ⟨_, _, rfl⟩ | ⟨_, _, _, rfl⟩
  · exact flowLegal_outside (isa := false) rfl (bit_debugVectorAddress s) rfl
  · exact flowLegal_outside (isa := false) rfl (bit_debugVectorAddress s) rfl
  · exact flowLegal_outside (isa := false) rfl (bit_vectorAddress s e) rfl

/-- The record of hazards at the end of a delay slot: no barrier of JR.HB is pending any more. -/
theorem afterSlot_hbPending {u : State} (h : u.hz.hbPending = true → u.flow.inDs = true) :
    u.afterSlot.hbPending = false := by
  unfold State.afterSlot
  split
  · rfl
  · cases hb : u.hz.hbPending
    · rfl
    · simp_all

/-- An instruction with a word of its own was fetched from an aligned pc in MIPS32 mode. -/
theorem word_aligned_of_fetch {i : Instr} {s : State} (hc : compactRow i = false)
    (hfetch : (s.flow.isaMode = true ∧ compactRow i = true) ∨
      (s.flow.isaMode = false ∧ compactRow i = false ∧ aligned s.flow.pc 4 = true)) :
    s.flow.isaMode = false ∧ aligned s.flow.pc 4 = true := by
  rcases hfetch with ⟨_, h⟩ | ⟨h, _, ha⟩
  · rw [hc] at h; cases h
  · exact ⟨h, ha⟩

theorem bit_one_add_four {a : Word} (h : aligned a 4 = true) : bit (a + 4) 1 = false := by
  rw [aligned, beq_iff_eq] at h
  rw [bit_one_eq, decide_eq_false_iff_not, BitVec.toNat_add]
  have := a.isLt
  simp; omega

/-- An instruction that ends leaves the flow of control legal. -/
theorem Ends.flowLegal {i : Instr} {s u t : State} (hs : s.flowLegal) (hwait : s.waiting = false)
    (hfetch : (s.flow.isaMode = true ∧ compactRow i = true) ∨
      (s.flow.isaMode = false ∧ compactRow i = false ∧ aligned s.flow.pc 4 = true))
    (hwork : Work i s u) (h : Ends i s u t) : t.flowLegal := by
  obtain ⟨hpc, hnpc, hout, hin, _, hbar⟩ := hs
  have hflow := hwork.flow
  have hb := hwork.hbPending
  have hbar' : u.hz.hbPending = true → u.flow.inDs = true := by rw [hb, hflow]; exact hbar
  have hnb : s.flow.inDs = false → u.hz.hbPending = false := by
    intro hds; rw [hb]; cases hp : s.hz.hbPending
    · rfl
    · rw [hbar hp] at hds; cases hds
  cases h with
  | next hc => exact flowLegal_outside (by rw [State.advance_flow, hflow]) hnpc (afterSlot_hbPending hbar')
  | wait hc hu hds =>
    exact flowLegal_outside (show _ = _ by rw [State.advance_flow, hflow]) hnpc (afterSlot_hbPending hbar')
  | next16 len hc hl =>
    have hisa : s.flow.isaMode = true := by
      rcases hfetch with ⟨h, _⟩ | ⟨_, h, _⟩
      · exact h
      · rw [hc] at h; cases h
    have hds : s.flow.inDs = false := by
      cases hds : s.flow.inDs
      · rfl
      · rw [(hin hds).1] at hisa; cases hisa
    refine flowLegal_outside (a := s.flow.pc + len) (isa := true) (by rw [State.advance16_flow, hflow, hisa]; rfl) ?_
      (hnb hds)
    exact bit_zero_add hpc (by rcases hl with rfl | rfl <;> decide)
  | slot target isa h hc hds ht hh =>
    obtain ⟨hisa, hal⟩ := word_aligned_of_fetch hc hfetch
    obtain ⟨hni, hn⟩ := hout hds
    have hslot : bit s.flow.npc 1 = false := by
      rw [hn, hisa]; exact bit_one_add_four hal
    unfold State.flowLegal
    rw [State.setFlow_flow, hflow]
    have hnw : u.waiting = true → s.flow.inDs = true := by rw [hwork.waiting, hwait]; nofun
    exact ⟨hnpc, ht hpc hnpc, nofun, fun _ => ⟨hni.trans hisa, hslot⟩,
      fun hw => absurd (hnw hw) (by rw [hds]; decide), fun _ => rfl⟩
  | skip hc hds =>
    obtain ⟨hisa, _⟩ := word_aligned_of_fetch hc hfetch
    obtain ⟨hni, _⟩ := hout hds
    refine flowLegal_outside (a := s.flow.npc + 4) (isa := false) ?_ (bit_zero_add hnpc (by decide)) (hnb hds)
    rw [State.setFlow_flow, hflow, hni, hisa, instrStep, BitVec.add_assoc]; rfl
  | compactJump word hds => exact flowLegal_outside rfl (bit_withIsaBit word) (hnb hds)
  | eret => exact flowLegal_outside rfl (bit_withIsaBit _) rfl
  | deret => exact flowLegal_outside rfl (bit_withIsaBit _) rfl
  | raise e he => exact takeException_flowLegal he

/-- Settles O57: the entries go to even addresses outside a delay slot; an instruction begins at the pc that its fetch
found aligned, and no wait is on while it runs. -/
theorem stepKeepsFlow : Obligations.StepKeepsFlow := by
  intro s t hs h
  refine step_keeps (P := State.flowLegal) (fun _ h => h) ?begin (fun _ _ => ?cold) (fun _ _ _ => ?reset)
    (fun s _ _ => ?debug) (fun _ _ _ _ he => takeException_flowLegal he) ?exec hs h
  case begin =>
    rintro s ⟨hpc, hnpc, hout, hin, _, hbar⟩
    exact ⟨hpc, hnpc, hout, hin, nofun, hbar⟩
  case cold => exact flowLegal_outside (isa := false) rfl (by decide) rfl
  case reset => exact flowLegal_outside (isa := false) rfl (by decide) rfl
  case debug => exact flowLegal_outside (isa := false) rfl (bit_debugVectorAddress s) rfl
  case exec =>
    intro i s t hs hwait hfetch hi
    obtain ⟨u, hwork, hends⟩ := exec_next hi
    exact hends.flowLegal hs hwait (State.fetchDecode_ok hfetch) hwork

end Sys2Proof.Machine
end

section
/-! PROOFS. The register sets stay legal, and the constant bits of the coprocessor 0 registers stay constant. -/

namespace Sys2Proof.Machine

/-! ## Writes of coprocessor 0 registers, bit by bit -/

/-- A write under its mask (R303). -/
theorem State.bit_written (s : State) (r : CpReg) (x : Word) {k : Nat} (hk : k < 32) :
    bit (s.written r x) k =
      ((if bit (s.writeMask r) k then bit x k else bit (s.stored r) k) &&
        !(bit (clearOnlyMask r) k && !bit (s.stored r) k)) := by
  simp only [State.written, bit_and, bit_or, bit_not _ hk]
  cases bit (s.writeMask r) k <;> simp

/-- A field that the mask leaves out keeps its value. -/
theorem State.field_written_kept (s : State) (r : CpReg) (x : Word) {lo n : Nat} (h : lo + n ≤ 32)
    (hm : ∀ k, k < n → bit (s.writeMask r) (lo + k) = false) :
    field (s.written r x) lo n = field (s.stored r) lo n := by
  apply BitVec.eq_of_getLsbD_eq; intro k hk
  rw [getLsbD_field _ _ _ hk, getLsbD_field _ _ _ hk, s.bit_written r x (by omega), hm k hk]
  cases bit (s.stored r) (lo + k) <;> simp

/-- What the record of hazards holds of each register after a write: the value before the first of its writes. -/
theorem lookup_noteHazard (h : Hazards) (r q : CpReg) (old new : Word) :
    (noteHazard h r old new).hazard.lookup q =
      if q = r then some ((h.hazard.lookup q).getD old) else h.hazard.lookup q := by
  have hhaz : (noteHazard h r old new).hazard =
      if (h.hazard.lookup r).isSome then h.hazard else (r, old) :: h.hazard := by
    simp only [noteHazard]; split <;> split <;> rfl
  rw [hhaz]
  by_cases hq : q = r
  · subst hq
    rw [if_pos rfl]
    cases hl : h.hazard.lookup q with
    | none => simp
    | some v => simp [hl]
  · rw [if_neg hq]
    split
    · rfl
    · rw [List.lookup_cons, beq_eq_false_iff_ne.mpr hq]

/-- The writes of IntCtl, SRSCtl and SRSMap that do not stop (R303). -/
theorem State.writeFault_intCtl (s : State) (w : Word) :
    s.writeFault .intCtl w = none ↔ legalSpacing (field w 5 5) = true := by
  simp only [State.writeFault]; split <;> simp_all

theorem State.writeFault_srsCtl (s : State) (w : Word) :
    s.writeFault .srsCtl w = none ↔ field w 12 4 ≤ s.hss ∧ field w 6 4 ≤ s.hss := by
  simp only [State.writeFault]; split <;> simp_all

theorem State.writeFault_srsMap (s : State) (w : Word) :
    s.writeFault .srsMap w = none ↔ setsWithin s.hss w = true := by
  simp only [State.writeFault]; split <;> simp_all

/-- A register stored is the register read; every other register keeps its word. -/
theorem State.stored_store (s : State) {r : CpReg} (hr : r ≠ .llAddr) (v : Word) (q : CpReg) :
    (s.setCp0 (s.cp0.store r v)).stored q = if q = r then v else s.stored q := by
  cases r with
  | llAddr => exact absurd rfl hr
  | _ => cases q <;> rfl

/-- MTC0 writes the register it names under its mask, and Compare's write clears Cause.TI. -/
theorem State.stored_writeCp0 (s : State) (r : CpReg) (x : Word) (q : CpReg) :
    (s.writeCp0 r x).stored q =
      if q = r then s.written r x
      else if q = .cause ∧ r = .compare then setBit s.cp0.cause 30 false else s.stored q := by
  by_cases hc : r = .compare
  · subst hc; cases q <;> rfl
  have hst : (s.writeCp0 r x).stored q = (s.setCp0 (s.cp0.store r (s.written r x))).stored q := by
    unfold State.writeCp0; rw [if_neg hc]; rfl
  rw [hst]
  by_cases hl : r = .llAddr
  · subst hl
    have hw : s.written .llAddr x = s.llAddr :=
      word_eq_of_bit_eq fun k hk => by
        rw [s.bit_written _ _ hk]; simp [State.writeMask, clearOnlyMask, State.stored, bit]
    cases q with
    | llAddr => exact hw.symm
    | _ => rfl
  · rw [s.stored_store hl]
    simp [hc]

/-! ## The register sets -/

/-- SRSCtl, SRSMap and the record of hazards name sets that exist. -/
def SetsNamed (srsCtl srsMap : Word) (hazard : List (CpReg × Word)) : Prop :=
  let hss := field srsCtl 26 4
  field srsCtl 0 4 ≤ hss ∧ field srsCtl 6 4 ≤ hss ∧ field srsCtl 12 4 ≤ hss ∧ setsWithin hss srsMap = true ∧
    ∀ old, hazard.lookup CpReg.srsCtl = some old → field old 6 4 ≤ hss

/-- Register 0 of every set holds 0. -/
def ZeroRegisters (regs : Vector (Vector Word 32) 16) : Prop := ∀ set : Fin 16, (regs[set])[0] = 0

theorem State.setsLegal_iff (s : State) :
    s.setsLegal ↔ SetsNamed s.cp0.srsCtl s.cp0.srsMap s.hz.hazard ∧ ZeroRegisters s.regs := by
  simp only [State.setsLegal, SetsNamed, ZeroRegisters, State.css, State.pss, State.ess, State.hss]
  tauto

/-- SRSCtl after a change of CSS and PSS to sets that exist, with nothing left in the record. -/
theorem SetsNamed.switch {c m c' : Word} {hz : List (CpReg × Word)} (h : SetsNamed c m hz)
    (hcss : field c' 0 4 ≤ field c 26 4) (hpss : field c' 6 4 ≤ field c 26 4)
    (hess : field c' 12 4 = field c 12 4) (hhss : field c' 26 4 = field c 26 4) : SetsNamed c' m [] := by
  obtain ⟨_, _, hess', hmap, _⟩ := h
  unfold SetsNamed
  rw [hess, hhss]
  exact ⟨hcss, hpss, hess', hmap, nofun⟩

/-- With nothing left in the record. -/
theorem SetsNamed.clear {c m : Word} {hz : List (CpReg × Word)} (h : SetsNamed c m hz) : SetsNamed c m [] := by
  obtain ⟨hcss, hpss, hess, hmap, _⟩ := h
  exact ⟨hcss, hpss, hess, hmap, nofun⟩

/-- A write to a register changes register 0 of no set. -/
theorem ZeroRegisters.setSreg {s : State} (h : ZeroRegisters s.regs) (set : BitVec 4) (r : Reg) (v : Word) :
    ZeroRegisters (s.setSreg set r v).regs := by
  unfold State.setSreg
  split
  next => exact h
  next hr =>
    intro k
    have hr0 : r.toNat ≠ 0 := fun h0 => hr (BitVec.eq_of_toNat_eq h0)
    simp only [Fin.getElem_fin, Vector.getElem_set]
    split
    next hk =>
      rw [Vector.getElem_set_ne _ _ hr0]
      have := h ⟨set.toNat, set.isLt⟩
      simpa using this
    next => exact h k

/-- What a consumer sees of SRSCtl.PSS is a set that exists. -/
theorem SetsNamed.viewed_pss {s : State} (h : SetsNamed s.cp0.srsCtl s.cp0.srsMap s.hz.hazard) :
    s.viewed .srsCtl (field · 6 4) ≤ s.hss := by
  obtain ⟨_, hpss, _, _, hrec⟩ := h
  rcases s.viewed_cases .srsCtl (field · 6 4) with e | e <;> rw [e]
  · exact hpss
  · show field (s.earlierStored .srsCtl) 6 4 ≤ _
    unfold State.earlierStored
    cases hl : s.hz.hazard.lookup CpReg.srsCtl with
    | none => exact hpss
    | some old => exact hrec old hl

/-- The fields that name sets are all that matters of SRSCtl. -/
theorem SetsNamed.of_fields {c c' m : Word} {hz : List (CpReg × Word)} (h : SetsNamed c m hz)
    (hcss : field c' 0 4 = field c 0 4) (hpss : field c' 6 4 = field c 6 4) (hess : field c' 12 4 = field c 12 4)
    (hhss : field c' 26 4 = field c 26 4) : SetsNamed c' m hz := by
  unfold SetsNamed at h ⊢
  rwa [hcss, hpss, hess, hhss]

/-- The write of a register by MTC0 that does not stop. -/
theorem SetsNamed.writeCp0 {s : State} (h : SetsNamed s.cp0.srsCtl s.cp0.srsMap s.hz.hazard) {r : CpReg} {x : Word}
    (hf : s.writeFault r (s.written r x) = none) :
    SetsNamed (s.writeCp0 r x).cp0.srsCtl (s.writeCp0 r x).cp0.srsMap (s.writeCp0 r x).hz.hazard := by
  obtain ⟨hcss, hpss, hess, hmap, hrec⟩ := h
  have hctl : (s.writeCp0 r x).cp0.srsCtl = if CpReg.srsCtl = r then s.written r x else s.cp0.srsCtl :=
    s.stored_writeCp0 r x .srsCtl
  have hmap' : (s.writeCp0 r x).cp0.srsMap = if CpReg.srsMap = r then s.written r x else s.cp0.srsMap :=
    s.stored_writeCp0 r x .srsMap
  have hhss : field (s.writeCp0 r x).cp0.srsCtl 26 4 = s.hss := by
    rw [hctl]
    split
    next hr => subst hr; exact s.field_written_kept .srsCtl x (by omega) (by simp only [State.writeMask]; decide)
    next => rfl
  have hhaz : (s.writeCp0 r x).hz.hazard.lookup CpReg.srsCtl =
      if CpReg.srsCtl = r then some ((s.hz.hazard.lookup CpReg.srsCtl).getD (s.stored r))
      else s.hz.hazard.lookup CpReg.srsCtl := by
    unfold State.writeCp0
    split
    next hr =>
      subst hr
      rw [State.setHz_hz]
      split
      · rw [lookup_noteHazard, if_neg (by decide), lookup_noteHazard]
      · rw [lookup_noteHazard]
    next => rw [State.setHz_hz, lookup_noteHazard]
  unfold SetsNamed
  rw [hhss]
  refine ⟨?css, ?pss, ?ess, ?map, ?rec⟩
  case css =>
    rw [hctl]
    split
    next hr =>
      subst hr
      rw [s.field_written_kept .srsCtl x (by omega) (by simp only [State.writeMask]; decide)]; exact hcss
    next => exact hcss
  case pss =>
    rw [hctl]
    split
    next hr =>
      subst hr
      exact ((s.writeFault_srsCtl _).mp hf).2
    next => exact hpss
  case ess =>
    rw [hctl]
    split
    next hr =>
      subst hr
      exact ((s.writeFault_srsCtl _).mp hf).1
    next => exact hess
  case map =>
    rw [hmap']
    split
    next hr =>
      subst hr
      exact (s.writeFault_srsMap _).mp hf
    next => exact hmap
  case rec =>
    intro old hold
    rw [hhaz] at hold
    split at hold
    next hr =>
      subst hr
      obtain rfl := Option.some.inj hold
      cases hl : s.hz.hazard.lookup CpReg.srsCtl with
      | none => exact hpss
      | some v => exact hrec v hl
    next => exact hrec old hold

/-- Every update of an instruction keeps the register sets legal. -/
theorem Work.setsLegal {i : Instr} {s u : State} (h : Work i s u) (hs : s.setsLegal) : u.setsLegal := by
  simp only [State.setsLegal_iff] at hs ⊢
  induction h with
  | start => exact hs
  | reg set r v _ ih => exact ⟨by simpa using ih.1, ih.2.setSreg set r v⟩
  | hiLo _ _ _ _ ih | link _ _ ih | store _ _ _ ih => exact ih
  | clearHazards _ ih => exact ⟨ih.1.clear, ih.2⟩
  | cp0 r x _ hf => exact ⟨hs.1.writeCp0 hf, by rw [State.writeCp0_regs]; exact hs.2⟩
  | enable b =>
    obtain ⟨⟨hcss, hpss, hess, hmap, hrec⟩, hzero⟩ := hs
    refine ⟨⟨hcss, hpss, hess, hmap, fun old hold => hrec old ?_⟩, hzero⟩
    simpa [State.withInterruptEnable, lookup_noteHazard] using hold

/-- The record is kept or emptied. -/
theorem SetsNamed.of_kept_or_cleared {c m : Word} {hz hz' : List (CpReg × Word)} (h : SetsNamed c m hz)
    (hk : hz' = hz ∨ hz' = []) : SetsNamed c m hz' := by
  rcases hk with rfl | rfl
  · exact h
  · exact h.clear

theorem State.afterSlot_hazard (u : State) : u.afterSlot.hazard = u.hz.hazard ∨ u.afterSlot.hazard = [] := by
  unfold State.afterSlot
  split
  · exact .inr rfl
  · exact .inl rfl

/-- An entry to an exception whose register set exists. -/
theorem takeException_setsLegal {e : Exc} {s t : State} (hs : s.setsLegal) (h : takeException e s = .next t) :
    t.setsLegal := by
  rw [State.setsLegal_iff] at hs ⊢
  obtain ⟨hnamed, hzero⟩ := hs
  rcases takeException_next h with ⟨_, rfl⟩ | ⟨_, _, rfl⟩ | ⟨_, _, hset, rfl⟩
  · exact ⟨hnamed.clear, hzero⟩
  · exact ⟨hnamed.clear, hzero⟩
  · refine ⟨?_, hzero⟩
    have hctl : (s.entryCp0 e).srsCtl =
        if s.switchesSet then setField (setField s.cp0.srsCtl 6 s.css) 0 (s.newSet e) else s.cp0.srsCtl := rfl
    show SetsNamed (s.entryCp0 e).srsCtl _ _
    rw [hctl]
    split
    next hsw =>
      refine hnamed.switch ?_ ?_ ?_ ?_
      · rw [field_setField_self _ _ _ (by omega)]; exact hset hsw
      · rw [field_setField_apart _ _ _ _ _ (by omega) (by omega), field_setField_self _ _ _ (by omega)]
        exact hnamed.1
      · rw [field_setField_apart _ _ _ _ _ (by omega) (by omega), field_setField_apart _ _ _ _ _ (by omega) (by omega)]
      · rw [field_setField_apart _ _ _ _ _ (by omega) (by omega), field_setField_apart _ _ _ _ _ (by omega) (by omega)]
    next => exact hnamed.clear

/-- The return of ERET selects the previous set, as it was before or after an unbarriered write. -/
theorem returnFromException_setsLegal {s : State} (hs : s.setsLegal) : (returnFromException s).setsLegal := by
  rw [State.setsLegal_iff] at hs ⊢
  obtain ⟨hnamed, hzero⟩ := hs
  refine ⟨?_, hzero⟩
  have hpss : field s.cp0.srsCtl 6 4 ≤ field s.cp0.srsCtl 26 4 := hnamed.2.1
  show SetsNamed (if _ then setField s.cp0.srsCtl 0 (s.viewed .srsCtl (field · 6 4)) else s.cp0.srsCtl) _ _
  split
  next =>
    refine hnamed.switch ?_ ?_ ?_ ?_
    · rw [field_setField_self _ _ _ (by omega)]; exact hnamed.viewed_pss
    · rw [field_setField_apart _ _ _ _ _ (by omega) (by omega)]; exact hpss
    · rw [field_setField_apart _ _ _ _ _ (by omega) (by omega)]
    · rw [field_setField_apart _ _ _ _ _ (by omega) (by omega)]
  next => exact hnamed.clear

theorem Ends.setsLegal {i : Instr} {s u t : State} (h : Ends i s u t) (hu : u.setsLegal) : t.setsLegal := by
  cases h with
  | raise e he => exact takeException_setsLegal hu he
  | eret => exact returnFromException_setsLegal hu
  | next | wait =>
    rw [State.setsLegal_iff] at hu ⊢
    exact ⟨hu.1.of_kept_or_cleared u.afterSlot_hazard, hu.2⟩
  | slot target isa h _ _ _ hh =>
    rw [State.setsLegal_iff] at hu ⊢
    refine ⟨hu.1.of_kept_or_cleared (.inl ?_), hu.2⟩
    rcases hh with rfl | rfl <;> rfl
  | deret =>
    rw [State.setsLegal_iff] at hu ⊢
    exact ⟨hu.1.clear, hu.2⟩
  | next16 | skip | compactJump => exact hu

theorem field_and (v w : Word) (lo n : Nat) : field (v &&& w) lo n = field v lo n &&& field w lo n := by
  apply BitVec.eq_of_getLsbD_eq; intro k hk
  rw [BitVec.getLsbD_and, getLsbD_field _ _ _ hk, getLsbD_field _ _ _ hk, getLsbD_field _ _ _ hk, bit_and]

/-- Settles O58: MTC0 stops at a set above HSS, an entry at one that its selector names, and ERET returns to a set that
SRSCtl.PSS names or named. -/
theorem stepKeepsSets : Obligations.StepKeepsSets := by
  intro s t hs h
  refine step_keeps (P := State.setsLegal) ?observe (fun _ h => h) ?cold ?reset ?debug
    (fun _ _ _ hs he => takeException_setsLegal hs he) ?exec hs h
  case observe =>
    intro s hs
    rw [State.setsLegal_iff] at hs ⊢
    refine ⟨hs.1.of_fields ?_ ?_ ?_ ?_, hs.2⟩ <;> exact field_setField_apart _ _ _ _ _ (by omega) (by omega)
  case cold =>
    intro s _
    have hfield : ∀ lo, lo + 4 ≤ 26 → field (s.cp0.srsCtl &&& 0x3C000000) lo 4 = 0 := by
      intro lo hlo
      have hconst : ∀ lo, lo < 23 → field 0x3C000000 lo 4 = 0#4 := by decide
      rw [field_and, hconst lo (by omega)]
      exact BitVec.and_zero
    have hmap : ∀ hss : BitVec 4, setsWithin hss 0 = true := by decide
    rw [State.setsLegal_iff]
    refine ⟨?_, show ZeroRegisters State.reset.regs by unfold ZeroRegisters; decide⟩
    show SetsNamed (s.cp0.srsCtl &&& 0x3C000000) 0 []
    unfold SetsNamed
    rw [hfield 0 (by omega), hfield 6 (by omega), hfield 12 (by omega)]
    exact ⟨Nat.zero_le _, Nat.zero_le _, Nat.zero_le _, hmap _, nofun⟩
  case reset =>
    intro s soft hs
    rw [State.setsLegal_iff] at hs ⊢
    exact ⟨hs.1.clear, hs.2⟩
  case debug =>
    intro s c hs
    rw [State.setsLegal_iff] at hs ⊢
    exact ⟨hs.1.clear, hs.2⟩
  case exec =>
    intro i s t hs _ _ hi
    obtain ⟨u, hwork, hends⟩ := exec_next hi
    exact hends.setsLegal (hwork.setsLegal hs)

/-! ## The constant bits -/

/-- The bits of a register that are constant, and the legal values of IntCtl.VS (R31, R32, R37, R39, R43, R44). -/
def ConstantBits (p : Platform) (r : CpReg) (w : Word) : Prop :=
  match r with
  | .status => w &&& 0xE78700E8 = 0
  | .cause => w &&& 0x373FFC83 = 0
  | .srsCtl => w &&& 0xC3C30C30 = 0
  | .intCtl => w &&& 0x03FFFC1F = 0 ∧ legalSpacing (field w 5 5) = true
  | .ebase => w &&& 0xC0000C00 = 0x80000000
  | .hwrena => w &&& ~~~(zext p.hwrenaImplMask) = 0
  | _ => True

theorem State.reservedLegal_iff (s : State) :
    s.reservedLegal ↔
      s.platform.statusWriteMask &&& 0xE78700E8 = 0 ∧ ∀ r, ConstantBits s.platform r (s.stored r) := by
  constructor
  · rintro ⟨hmask, hstatus, hcause, hctl, hint, hvs, hebase, hhwr⟩
    refine ⟨hmask, fun r => ?_⟩
    cases r with
    | status => exact hstatus
    | cause => exact hcause
    | srsCtl => exact hctl
    | intCtl => exact ⟨hint, hvs⟩
    | ebase => exact hebase
    | hwrena => exact hhwr
    | _ => trivial
  · rintro ⟨hmask, hr⟩
    obtain ⟨hint, hvs⟩ := hr .intCtl
    exact ⟨hmask, hr .status, hr .cause, hr .srsCtl, hint, hvs, hr .ebase, hr .hwrena⟩

/-- A bit written outside a mask does not show under it. -/
theorem setBit_and {i : Nat} {m : Word} (h : 1#32 <<< i &&& m = 0) (w : Word) (b : Bool) :
    setBit w i b &&& m = w &&& m := by
  apply word_eq_of_bit_eq; intro k hk
  have hbit : bit (1#32 <<< i &&& m) k = false := by rw [h]; simp [bit]
  rw [bit_and, bit, getLsbD_one_shiftLeft i k hk] at hbit
  rw [bit_and, bit_and, bit_setBit _ _ _ _ hk]
  split
  next hki => rw [decide_eq_true hki, Bool.true_and] at hbit; simp [hbit]
  next => rfl

/-- A field written outside a mask does not show under it. -/
theorem setField_and {lo n : Nat} {m : Word} (h : fieldMask lo n &&& m = 0) (w : Word) (v : BitVec n) :
    setField w lo v &&& m = w &&& m := by
  apply word_eq_of_bit_eq; intro k hk
  have hbit : bit (fieldMask lo n &&& m) k = false := by rw [h]; simp [bit]
  rw [bit_and, bit_fieldMask _ _ hk] at hbit
  rw [bit_and, bit_and, bit_setField _ _ _ hk]
  split
  next hin => rw [decide_eq_true hin, Bool.true_and] at hbit; simp [hbit]
  next => rfl

/-- A write whose mask lies outside m does not show under m. -/
theorem State.written_and (s : State) (r : CpReg) (x : Word) {m : Word} (hm : s.writeMask r &&& m = 0)
    (hc : clearOnlyMask r &&& m = 0) : s.written r x &&& m = s.stored r &&& m := by
  apply word_eq_of_bit_eq; intro k hk
  have hmk : bit (s.writeMask r &&& m) k = false := by rw [hm]; simp [bit]
  have hck : bit (clearOnlyMask r &&& m) k = false := by rw [hc]; simp [bit]
  rw [bit_and] at hmk hck
  rw [bit_and, bit_and, s.bit_written _ _ hk]
  cases hb : bit m k
  · simp
  · rw [hb, Bool.and_true] at hmk hck; simp [hmk, hck]

/-- A write of MTC0 that does not stop keeps the constant bits. -/
theorem ConstantBits.written {s : State} (hmask : s.platform.statusWriteMask &&& 0xE78700E8 = 0) {r : CpReg} {x : Word}
    (h : ConstantBits s.platform r (s.stored r)) (hf : s.writeFault r (s.written r x) = none) :
    ConstantBits s.platform r (s.written r x) := by
  cases r with
  | status => exact (s.written_and .status x hmask (by decide)).trans h
  | cause => exact (s.written_and .cause x (by simp only [State.writeMask]; decide) (by decide)).trans h
  | srsCtl => exact (s.written_and .srsCtl x (by simp only [State.writeMask]; decide) (by decide)).trans h
  | intCtl =>
    refine ⟨(s.written_and .intCtl x (by simp only [State.writeMask]; decide) (by decide)).trans h.1, ?_⟩
    exact (s.writeFault_intCtl _).mp hf
  | ebase => exact (s.written_and .ebase x (by simp only [State.writeMask]; decide) (by decide)).trans h
  | hwrena => exact (s.written_and .hwrena x (BitVec.and_not_self _) (BitVec.zero_and)).trans h
  | _ => trivial

/-- The timer request and the other bits of Cause that an update sets are not constant. -/
theorem ConstantBits.setBit_timer {p : Platform} {w : Word} (h : ConstantBits p .cause w) (b : Bool) :
    ConstantBits p .cause (setBit w 30 b) := (setBit_and (by decide) w b).trans h

/-- Every update of an instruction keeps the constant bits. -/
theorem Work.reservedLegal {i : Instr} {s u : State} (h : Work i s u) (hs : s.reservedLegal) : u.reservedLegal := by
  induction h with
  | start => exact hs
  | reg set r v _ ih => simpa [State.reservedLegal] using ih
  | hiLo _ _ _ _ ih | link _ _ ih | store _ _ _ ih | clearHazards _ ih => exact ih
  | cp0 r x _ hf =>
    rw [State.reservedLegal_iff] at hs ⊢
    obtain ⟨hmask, hbits⟩ := hs
    rw [State.writeCp0_platform]
    refine ⟨hmask, fun q => ?_⟩
    rw [s.stored_writeCp0]
    split
    next hq => subst hq; exact (hbits q).written hmask hf
    next =>
      split
      next hq => obtain ⟨rfl, _⟩ := hq; exact (hbits .cause).setBit_timer false
      next => exact hbits q
  | enable b =>
    obtain ⟨hmask, hstatus, hrest⟩ := hs
    exact ⟨hmask, (setBit_and (by decide) _ _).trans hstatus, hrest⟩

theorem takeException_reservedLegal {e : Exc} {s t : State} (hs : s.reservedLegal) (h : takeException e s = .next t) :
    t.reservedLegal := by
  obtain ⟨hmask, hstatus, hcause, hctl, hrest⟩ := hs
  rcases takeException_next h with ⟨_, rfl⟩ | ⟨_, _, rfl⟩ | ⟨_, _, _, rfl⟩
  · exact ⟨hmask, hstatus, hcause, hctl, hrest⟩
  · exact ⟨hmask, hstatus, hcause, hctl, hrest⟩
  · refine ⟨hmask, (setBit_and (by decide) _ _).trans hstatus, (setField_and (by decide) _ _).trans ?_, ?_, hrest⟩
    · split
      · exact hcause
      · exact (setBit_and (by decide) _ _).trans hcause
    · show (if s.switchesSet then setField (setField s.cp0.srsCtl 6 s.css) 0 (s.newSet e) else s.cp0.srsCtl) &&& _ = _
      split
      · exact ((setField_and (by decide) _ _).trans (setField_and (by decide) _ _)).trans hctl
      · exact hctl

theorem Ends.reservedLegal {i : Instr} {s u t : State} (h : Ends i s u t) (hu : u.reservedLegal) : t.reservedLegal := by
  cases h with
  | raise e he => exact takeException_reservedLegal hu he
  | eret =>
    obtain ⟨hmask, hstatus, hcause, hctl, hrest⟩ := hu
    refine ⟨hmask, (setBit_and ?_ _ _).trans hstatus, hcause, ?_, hrest⟩
    · split <;> decide
    · show (if _ then setField u.cp0.srsCtl 0 (u.viewed .srsCtl (field · 6 4)) else u.cp0.srsCtl) &&& _ = _
      split
      · exact (setField_and (by decide) _ _).trans hctl
      · exact hctl
  | next | wait | slot | deret | next16 | skip | compactJump => exact hu

/-- Settles O59: what writes these registers writes under a mask, a bit or a field that leaves the constant bits out. -/
theorem stepKeepsReserved : Obligations.StepKeepsReserved := by
  intro s t hs h
  refine step_keeps (P := State.reservedLegal) ?observe (fun _ h => h) ?cold ?reset (fun _ _ h => h)
    (fun _ _ _ hs he => takeException_reservedLegal hs he) ?exec hs h
  case observe =>
    rintro s ⟨hmask, hstatus, hcause, hctl, hrest⟩
    refine ⟨hmask, hstatus, ?_, (setField_and (by decide) _ _).trans hctl, hrest⟩
    show (if _ then setBit s.cp0.cause 30 true else s.cp0.cause) &&& _ = _
    split
    · exact (setBit_and (by decide) _ _).trans hcause
    · exact hcause
  case cold =>
    rintro s ⟨hmask, _, _, _, hint, _, _, _⟩
    refine ⟨hmask, show (0x00400004 : Word) &&& _ = 0 by decide, BitVec.zero_and, ?ctl,
      (setField_and (by decide) _ _).trans hint, ?spacing, ?ebase,
      BitVec.zero_and⟩
    case ctl =>
      show s.cp0.srsCtl &&& 0x3C000000 &&& 0xC3C30C30 = 0
      rw [BitVec.and_assoc, show (0x3C000000 : Word) &&& 0xC3C30C30 = 0 by decide]
      exact BitVec.and_zero
    case spacing =>
      show legalSpacing (field (setField s.cp0.intCtl 5 (0#5)) 5 5) = true
      rw [field_setField_self _ _ _ (by omega)]; rfl
    case ebase =>
      show (0x80000000 ||| (s.cp0.ebase &&& 0x3FF)) &&& 0xC0000C00 = 0x80000000
      rw [BitVec.and_or_distrib_right, BitVec.and_assoc, show (0x3FF : Word) &&& 0xC0000C00 = 0#32 by decide,
        BitVec.and_zero]
      rfl
  case reset =>
    rintro s soft ⟨hmask, hstatus, hrest⟩
    refine ⟨hmask, ?_, hrest⟩
    exact ((setBit_and (by decide) _ _).trans <| (setBit_and (by decide) _ _).trans <|
      (setBit_and (by decide) _ _).trans <| (setBit_and (by decide) _ _).trans
        (setBit_and (by decide) _ _)).trans hstatus
  case exec =>
    intro i s t hs _ _ hi
    obtain ⟨u, hwork, hends⟩ := exec_next hi
    exact hends.reservedLegal (hwork.reservedLegal hs)

/-- Settles O60: the words of the reset state, looked up. -/
theorem resetInvariants : Obligations.ResetInvariants :=
  ⟨reset_canonical, ⟨by decide, by decide, by decide, by decide, by decide, by decide⟩,
    ⟨by decide, by decide, by decide, by decide, nofun, by decide⟩,
    ⟨by decide, by decide, by decide, by decide, by decide, by decide, by decide, by decide⟩⟩

/-- Settles O39: the words of the reset state, looked up. -/
theorem resetState : Obligations.ResetState := by
  unfold Obligations.ResetState
  decide

end Sys2Proof.Machine
end

section
/-! PROOFS. The exceptions of 60_exceptions.md and the instructions that raise them: the entry to an ordinary exception
and to an interrupt, SYSCALL, BREAK and the traps, and the access to coprocessor 0. -/

namespace Sys2Proof.Machine

/-! ## Entries -/

/-- What an ordinary entry does, wherever it goes. -/
theorem State.entered_at (s : State) (e : Exc) :
    Entered s (s.entered e) (excCode e) (badAddress e s.cp0.badVAddr) (s.vectorAddress e) := by
  refine ⟨?code, ?cause, ?nested, ?outer, ?exl, ?status, rfl, rfl, rfl, rfl, rfl, fun _ _ => rfl, ⟨rfl, rfl, rfl⟩,
    ⟨rfl, rfl⟩, ⟨rfl, rfl, rfl, rfl, rfl⟩, fun _ => rfl⟩
  case code => exact field_setField_self _ _ _ (by omega)
  case cause =>
    intro k hk h31
    exact (s.bit_entryCause e hk).trans (if_neg (by simp [h31]))
  case nested =>
    intro hexl
    exact ⟨(s.entryCp0_epc e).trans (if_pos hexl), (s.bit_entryCause e (by omega)).trans (if_neg (by simp [hexl]))⟩
  case outer =>
    intro hexl
    exact ⟨(s.entryCp0_epc e).trans (if_neg (by simp [hexl])),
      (s.bit_entryCause e (by omega)).trans (if_pos ⟨rfl, hexl⟩)⟩
  case exl => exact s.bit_entryStatus e 1
  case status =>
    intro k hk
    exact (s.bit_entryStatus e k).trans (if_neg hk)

/-- The switch of register sets at an ordinary entry, to the set that it selects. -/
theorem State.entered_switches_to {s : State} (h : s.hz.hazard = []) (e : Exc) :
    SwitchedTo s (s.entered e) (s.newSet e) := by
  have hsrs : (s.entered e).cp0.srsCtl =
      if s.switchesSet then setField (setField s.cp0.srsCtl 6 s.css) 0 (s.newSet e) else s.cp0.srsCtl := rfl
  unfold SwitchedTo
  split
  next hsw =>
    rw [if_pos ((State.switchesSet_settled h).mpr hsw)] at hsrs
    refine ⟨?css, ?pss, ?rest⟩
    case css => rw [State.css, hsrs]; exact field_setField_self _ _ _ (by omega)
    case pss =>
      rw [State.pss, hsrs, field_setField_apart _ _ _ _ _ (by omega) (by omega)]
      exact field_setField_self _ _ _ (by omega)
    case rest =>
      rw [hsrs]
      apply word_eq_of_bit_eq; intro k hk
      simp only [bit_setField _ _ _ hk]
      split
      next hpss => rw [State.pss, getLsbD_field _ _ _ (by omega), Nat.add_sub_cancel' hpss.1]
      next =>
        split
        next hcss => rw [State.css, getLsbD_field _ _ _ (by omega), Nat.add_sub_cancel' hcss.1]
        next => rfl
  next hsw => rw [hsrs, if_neg (mt (State.switchesSet_settled h).mp hsw)]

/-- An ordinary exception outside Debug Mode, whose register set exists. -/
theorem takeException_ordinary {s : State} (hd : s.inDebug = false) {e : Exc} (hb : e ≠ .debugBreakpoint)
    (hset : s.newSet e ≤ s.hss) : takeException e s = .next (s.entered e) := by
  have hset' : ¬s.hss < s.newSet e := BitVec.not_lt.mpr hset
  simp [takeException, hd, hb, enterOrdinary, hset', State.entered]

/-- Settles O34. -/
theorem exceptionEntry : Obligations.ExceptionEntry := by
  intro s a n h
  refine ⟨?load, ?store, ?sys, ?brk, ?ri, ?cpu, ?ov, ?tr, ?ce⟩
  case load => exact takeException_enters (e := .addressErrorLoad a) h (by simp) (by simp)
  case store => exact takeException_enters (e := .addressErrorStore a) h (by simp) (by simp)
  case sys => exact takeException_enters h (by decide) (by decide)
  case brk => exact takeException_enters h (by decide) (by decide)
  case ri => exact takeException_enters h (by decide) (by decide)
  case cpu => exact takeException_enters (e := .coprocessorUnusable n) h (by simp) (by simp)
  case ov => exact takeException_enters h (by decide) (by decide)
  case tr => exact takeException_enters h (by decide) (by decide)
  case ce =>
    intro t ht
    rw [takeException_ready h (by simp) (by simp)] at ht
    cases ht; rfl

/-! ## Interrupts -/

/-- An interrupt that enters at a vector with a register set: the vector offset and the set that it selects. -/
theorem takeException_interrupt {s : State} (h : s.ready) {offset : Word} {set : BitVec 4}
    (hoff : s.vectorOffset .interrupt = offset) (hnew : s.newSet .interrupt = set) (hset : set ≤ s.hss) :
    let base := if statusBEV s.cp0.status then (0xBFC00200 : Word) else s.cp0.ebase &&& 0xFFFFF000
    ∃ t, takeException .interrupt s = .next t ∧
      Entered s t 0 s.cp0.badVAddr (base.extractLsb' 30 2 ++ (base + offset).extractLsb' 0 30) ∧
      SwitchedTo s t set := by
  obtain ⟨⟨hhaz, _⟩, hd, _⟩ := h
  have hvec : s.vectorAddress .interrupt =
      (if statusBEV s.cp0.status then (0xBFC00200 : Word) else s.cp0.ebase &&& 0xFFFFF000).extractLsb' 30 2 ++
        ((if statusBEV s.cp0.status then (0xBFC00200 : Word) else s.cp0.ebase &&& 0xFFFFF000) + offset).extractLsb' 0
          30 := by
    simp only [State.vectorAddress, State.viewed_settled hhaz, State.cpReg_status, State.cpReg_ebase, hoff,
      Config.bevBase]
  refine ⟨s.entered .interrupt, takeException_ordinary hd (by decide) (hnew ▸ hset), ?_,
    hnew ▸ State.entered_switches_to hhaz _⟩
  rw [← hvec]
  exact s.entered_at .interrupt

/-- The highest bit set. -/
theorem highestBit_eq {b : BitVec 8} {v : Nat} (hv : v < 8) (hb : b.getLsbD v = true)
    (hn : ∀ n, v < n → n < 8 → b.getLsbD n = false) : highestBit b = v := by
  have h7 := hn 7; have h6 := hn 6; have h5 := hn 5; have h4 := hn 4; have h3 := hn 3; have h2 := hn 2; have h1 := hn 1
  interval_cases v <;> simp_all [highestBit]

/-- An interrupt has a vector of its own, as Cause shows and nothing awaits a barrier. -/
theorem State.vectoredInterrupt_settled {s : State} (h : s.hz.hazard = []) :
    s.vectoredInterrupt = ((bit s.cp0.config3 5 || bit s.cp0.config3 6) && bit (s.causeWord s.cp0.cause) 23 &&
      !statusBEV s.cp0.status && field s.cp0.intCtl 5 5 != 0) := by
  simp only [State.vectoredInterrupt, State.viewed_settled h, State.cpReg_cause, State.cpReg_status, State.cpReg_intCtl]

/-- The offset of an interrupt at EXL = 0. -/
theorem State.vectorOffset_interrupt {s : State} (h : s.hz.hazard = []) (hexl : statusEXL s.cp0.status = false) :
    s.vectorOffset .interrupt =
      if bit (s.causeWord s.cp0.cause) 23 = false then (0x180 : Word)
      else if s.vectoredInterrupt = false then (0x200 : Word)
      else (0x200 : Word) + BitVec.ofNat 32 s.vectorNumber * (zext (field s.cp0.intCtl 5 5) <<< 5) := by
  simp only [State.vectorOffset, hexl, State.viewed_settled h, State.cpReg_cause, State.cpReg_intCtl]
  simp

/-- The set of an interrupt without a vector of its own. -/
theorem State.newSet_interrupt_plain {s : State} (h : s.hz.hazard = []) (hv : s.vectoredInterrupt = false) :
    s.newSet .interrupt = s.ess := by
  simp [State.newSet, hv, State.viewed_settled h, State.ess]

/-- The distance of two vectors (R358). -/
theorem vectorDistance (v : Nat) (vs : BitVec 5) :
    BitVec.ofNat 32 v * (zext vs <<< 5) = BitVec.ofNat 32 (v * (32 * vs.toNat)) := by
  apply BitVec.eq_of_toNat_eq
  have hvs := vs.isLt
  have hshift : (zext vs <<< 5).toNat = 32 * vs.toNat := by
    rw [zext, BitVec.toNat_shiftLeft, BitVec.toNat_setWidth, Nat.shiftLeft_eq]; omega
  rw [BitVec.toNat_mul, hshift, BitVec.toNat_ofNat, BitVec.toNat_ofNat, Nat.mod_mul_mod]

/-- Settles O35: nothing awaits a barrier, so each view of a register is the register. -/
theorem interruptEntry : Obligations.InterruptEntry := by
  intro s h hexl
  have hhaz := h.1.1
  have hess := h.2.2
  have hvectored := State.vectoredInterrupt_settled hhaz
  have hoffset := State.vectorOffset_interrupt hhaz hexl
  refine ⟨?compat, ?special, ?vectored, ?controller⟩
  case compat =>
    intro hiv
    have hv : s.vectoredInterrupt = false := by rw [hvectored, hiv]; simp
    exact takeException_interrupt h (hoffset.trans (if_pos hiv)) (State.newSet_interrupt_plain hhaz hv) hess
  case special =>
    intro hiv hwhy
    have hv : s.vectoredInterrupt = false := by
      rw [hvectored]
      rcases hwhy with hbev | hvs | ⟨hvint, hveic⟩
      · simp [hbev]
      · simp [hvs]
      · simp [hvint, hveic]
    exact takeException_interrupt h (hoffset.trans (by rw [if_neg (by simp [hiv]), if_pos hv]))
      (State.newSet_interrupt_plain hhaz hv) hess
  case vectored =>
    intro hiv hbev hvs hvint hveic v hv hca hst hhigh hset
    have hvec : s.vectoredInterrupt = true := by
      rw [hvectored, hiv, hbev, hvint, bne_iff_ne.mpr hvs]; rfl
    have hcontroller : s.controllerInterrupt = false := by simp [State.controllerInterrupt, hveic]
    have hnumber : s.vectorNumber = v := by
      simp only [State.vectorNumber, hcontroller, State.viewed_settled hhaz, State.cpReg_cause, State.cpReg_status]
      refine highestBit_eq hv ?_ fun n hvn hn => ?_
      · rw [BitVec.getLsbD_and, getLsbD_field _ _ _ hv, getLsbD_field _ _ _ hv, hca, hst]; rfl
      · rw [BitVec.getLsbD_and, getLsbD_field _ _ _ hn, getLsbD_field _ _ _ hn, Bool.and_eq_false_iff]
        simpa [Classical.or_iff_not_imp_left] using hhigh n hvn hn
    refine takeException_interrupt h (hoffset.trans ?_) ?_ hset
    · rw [if_neg (by simp [hiv]), if_neg (by simp [hvec]), hnumber, vectorDistance]
    · simp [State.newSet, hvec, hcontroller, State.viewed_settled hhaz, hnumber, Nat.mod_eq_of_lt hv]
  case controller =>
    intro hiv hbev hvs hveic hset
    have hvec : s.vectoredInterrupt = true := by
      rw [hvectored, hiv, hbev, hveic, bne_iff_ne.mpr hvs, Bool.or_true]; rfl
    have hcontroller : s.controllerInterrupt = true := by simp [State.controllerInterrupt, hveic, hvec]
    have hnumber : s.vectorNumber = (s.port.vector.getD s.port.lines).toNat := by simp [State.vectorNumber, hcontroller]
    refine takeException_interrupt h (hoffset.trans ?_) ?_ hset
    · rw [if_neg (by simp [hiv]), if_neg (by simp [hvec]), hnumber, vectorDistance]
    · simp [State.newSet, hvec, hcontroller]

/-! ## SYSCALL, BREAK and the traps -/

/-- Settles O40. -/
theorem systemCalls : Obligations.SystemCalls := fun _ _ =>
  ⟨rfl, rfl, fun h => ⟨takeException_enters (e := .syscall) h (by decide) (by decide),
    takeException_enters (e := .breakpoint) h (by decide) (by decide)⟩⟩

/-- A trap instruction, by its condition. -/
theorem trapWhen_spec {b : Bool} {c : Prop} (h : b = true ↔ c) (s : State) :
    (c → trapWhen b s = takeException .trap s ∧ (s.ready → Enters (trapWhen b s) s 13 s.cp0.badVAddr)) ∧
      (¬c → Passes (trapWhen b s) s) := by
  refine ⟨fun hc => ?_, fun hc => ?_⟩
  · rw [h.mpr hc, trapWhen_true]
    exact ⟨rfl, fun hready => takeException_enters hready (by decide) (by decide)⟩
  · rw [Bool.eq_false_iff.mpr (mt h.mp hc), trapWhen_false]
    exact retire_passes s

theorem signedLess_iff (a b : Word) : signedLess a b = true ↔ a.toInt < b.toInt := by simp [signedLess]

theorem unsignedLess_iff (a b : Word) : unsignedLess a b = true ↔ a.toNat < b.toNat := by simp [unsignedLess]

theorem not_signedLess_iff (a b : Word) : (!signedLess a b) = true ↔ b.toInt ≤ a.toInt := by simp [signedLess]

theorem not_unsignedLess_iff (a b : Word) : (!unsignedLess a b) = true ↔ b.toNat ≤ a.toNat := by simp [unsignedLess]

theorem eq_sext_iff (a : Word) (imm : Half) : a = sext imm ↔ a.toInt = imm.toInt := by
  rw [← toInt_sext imm (by omega), BitVec.toInt_inj]

/-- Settles O42. -/
theorem traps : Obligations.Traps := by
  intro s rs rt code imm
  refine ⟨?teq, ?tne, ?tge, ?tgeu, ?tlt, ?tltu, ?teqi, ?tnei, ?tgei, ?tgeiu, ?tlti, ?tltiu⟩
  case teq => exact trapWhen_spec beq_iff_eq s
  case tne => exact trapWhen_spec bne_iff_ne s
  case tge => exact trapWhen_spec (not_signedLess_iff _ _) s
  case tgeu => exact trapWhen_spec (not_unsignedLess_iff _ _) s
  case tlt => exact trapWhen_spec (signedLess_iff _ _) s
  case tltu => exact trapWhen_spec (unsignedLess_iff _ _) s
  case teqi => exact trapWhen_spec (beq_iff_eq.trans (eq_sext_iff _ imm)) s
  case tnei => exact trapWhen_spec (bne_iff_ne.trans (not_congr (eq_sext_iff _ imm))) s
  case tgei => exact trapWhen_spec ((not_signedLess_iff _ _).trans (by rw [toInt_sext imm (by omega)])) s
  case tgeiu => exact trapWhen_spec ((not_unsignedLess_iff _ _).trans (by rw [← toNat_sext, Int.ofNat_le])) s
  case tlti => exact trapWhen_spec ((signedLess_iff _ _).trans (by rw [toInt_sext imm (by omega)])) s
  case tltiu => exact trapWhen_spec ((unsignedLess_iff _ _).trans (by rw [← toNat_sext, Int.ofNat_lt])) s

/-! ## Access to coprocessor 0 -/

theorem State.cop0Usable_settled {s : State} (h : s.hz.hazard = []) :
    s.cop0Usable = (s.inDebug || (kernelMode s.cp0.status || statusCU0 s.cp0.status)) := by
  rw [State.cop0Usable, State.viewed_settled h, State.cpReg_status]

theorem withCop0_usable {s : State} (h : s.cop0Usable = true) (k : Out) : withCop0 s k = k := by simp [withCop0, h]

theorem withCop0_unusable {s : State} (h : s.cop0Usable = false) (k : Out) :
    withCop0 s k = takeException (.coprocessorUnusable 0) s := by simp [withCop0, h]

/-- The class row COP0 without access, outside a delay slot. -/
theorem execCop0_unusable {s : State} (h : s.cop0Usable = false) (hds : s.flow.inDs = false) (cofun : BitVec 25) :
    execCop0 cofun s = takeException (.coprocessorUnusable 0) s := by
  simp only [execCop0, waitOperation, eretOperation, deretOperation, outsideSlot_of_not hds, withCop0_unusable h,
    ite_self]

/-- The class row COP0 with access and a function that has no row of its own. -/
theorem execCop0_usable {s : State} (h : s.cop0Usable = true) {cofun : BitVec 25} (hwait : cofun.extractLsb' 0 6 ≠ 0x20)
    (heret : cofun ≠ 0x18) (hderet : cofun ≠ 0x1F) :
    execCop0 cofun s =
      if cofun ∈ [0x01, 0x02, 0x06, 0x08] then .refused .tlbOperation else takeException .reservedInstruction s := by
  simp only [execCop0, hwait, heret, hderet, if_false, withCop0_usable h]
  simp [or_assoc]

/-- Settles O43. -/
theorem cop0Access : Obligations.Cop0Access := by
  refine ⟨?without, ?access⟩
  case without =>
    intro s rt rd sel code cofun h hk hcu raises
    have hu : s.cop0Usable = false := by rw [State.cop0Usable_settled h.1.1, h.2.1, hk, hcu]; rfl
    have hraises : ∀ i, exec i s = takeException (.coprocessorUnusable 0) s → raises i := by
      intro i hi
      simp only [raises, hi]
      refine ⟨takeException_enters (e := .coprocessorUnusable 0) h (by decide) (by decide), fun t ht => ?_⟩
      rw [takeException_ready h (by decide) (by decide)] at ht
      cases ht; rfl
    refine ⟨?anywhere, fun hds => ?outside⟩
    case anywhere =>
      simp only [List.forall_mem_cons, List.not_mem_nil, false_imp_iff, implies_true, and_true]
      exact ⟨hraises _ (withCop0_unusable hu _), hraises _ (withCop0_unusable hu _), hraises _ (withCop0_unusable hu _),
        hraises _ (withCop0_unusable hu _), hraises _ (withCop0_unusable hu _), hraises _ (withCop0_unusable hu _)⟩
    case outside =>
      have hslot : ∀ k, outsideSlot s (withCop0 s k) = takeException (.coprocessorUnusable 0) s := fun k => by
        rw [outsideSlot_of_not hds, withCop0_unusable hu]
      simp only [List.forall_mem_cons, List.not_mem_nil, false_imp_iff, implies_true, and_true]
      exact ⟨hraises _ (hslot _), hraises _ (hslot _), hraises _ (hslot _), hraises _ (execCop0_unusable hu hds cofun)⟩
  case access =>
    intro s cofun hu
    refine ⟨fun hnot hwait hready => ?reserved, fun htlb => ?tlb⟩
    case reserved =>
      simp only [List.mem_cons, List.not_mem_nil, or_false, not_or] at hnot
      obtain ⟨h1, h2, h6, h8, heret, hderet⟩ := hnot
      have hfun : cofun ∉ [0x01, 0x02, 0x06, 0x08] := by
        simp only [List.mem_cons, List.not_mem_nil, or_false, not_or]
        exact ⟨h1, h2, h6, h8⟩
      have hexec : exec (.cop0 cofun) s = takeException .reservedInstruction s :=
        (execCop0_usable hu hwait heret hderet).trans (if_neg hfun)
      rw [hexec]
      exact takeException_enters hready (by decide) (by decide)
    case tlb =>
      have hrow := htlb
      simp only [List.mem_cons, List.not_mem_nil, or_false] at hrow
      rcases hrow with rfl | rfl | rfl | rfl <;>
        exact (execCop0_usable hu (by decide) (by decide) (by decide)).trans (if_pos htlb)

/-- Settles O55: without access no update and no end changes these registers; what is left are the exceptions. -/
theorem userKeepsCop0 : Obligations.UserKeepsCop0 := by
  intro i s t hset hd hk hcu h
  have hu : s.cop0Usable = false := by rw [State.cop0Usable_settled hset.1, hd, hk, hcu]; rfl
  obtain ⟨u, hwork, hends⟩ := exec_next h
  have hcp0 := hwork.cp0_of_not_usable hu
  cases hends with
  | raise e he => exact .inr ⟨e, u, hcp0, h.trans he.symm⟩
  | eret husable | deret husable | wait _ husable => rw [hu] at husable; cases husable
  | next | next16 | slot | skip | compactJump => exact .inl hcp0

end Sys2Proof.Machine
end

section
/-! PROOFS. Multiply, multiply-accumulate, divide, and the moves to and from HI and LO (42_multiply_divide.md). -/

namespace Sys2Proof.Machine

/-! ## Products and quotients -/

theorem signedProduct_eq_ofInt (a b : Word) : signedProduct a b = BitVec.ofInt 64 (a.toInt * b.toInt) :=
  (BitVec.ofInt_mul a.toInt b.toInt).symm

theorem unsignedProduct_eq_ofNat (a b : Word) : unsignedProduct a b = BitVec.ofNat 64 (a.toNat * b.toNat) := by
  rw [BitVec.ofNat_mul, BitVec.ofNat_toNat, BitVec.ofNat_toNat, unsignedProduct]

/-- The product of two words fits in 64 bits. -/
theorem toInt_signedProduct (a b : Word) : (signedProduct a b).toInt = a.toInt * b.toInt := by
  have hle : a.toInt * b.toInt ≤ 2 ^ (32 * 2 - 2) := BitVec.toInt_mul_toInt_le
  have hge : -(2 ^ (32 * 2 - 2)) ≤ a.toInt * b.toInt := BitVec.le_toInt_mul_toInt
  rw [signedProduct_eq_ofInt, BitVec.toInt_ofInt]
  exact Int.bmod_eq_of_le (by omega) (by omega)

theorem toNat_unsignedProduct (a b : Word) : (unsignedProduct a b).toNat = a.toNat * b.toNat := by
  rw [unsignedProduct_eq_ofNat, BitVec.toNat_ofNat]
  have h := Nat.mul_lt_mul'' a.isLt b.isLt
  exact Nat.mod_eq_of_lt h

/-- The low word of the signed product. -/
theorem setWidth_signedProduct (a b : Word) :
    (signedProduct a b).setWidth 32 = BitVec.ofInt 32 (a.toInt * b.toInt) := by
  rw [← toInt_signedProduct]
  exact (BitVec.signExtend_eq_setWidth_of_le _ (by omega)).symm

theorem high_append_low (v : BitVec 64) : v.extractLsb' 32 32 ++ v.extractLsb' 0 32 = v := by
  rw [BitVec.extractLsb'_append_extractLsb'_eq_extractLsb' (by omega)]
  exact BitVec.extractLsb'_eq_self

/-- The one quotient that does not fit, of -2^31 by -1, left aside. -/
theorem toInt_signedQuotient {n d : Word} (h : ¬(n = 0x80000000 ∧ d = 0xFFFFFFFF)) :
    (signedQuotient n d).toInt = n.toInt.tdiv d.toInt := by
  have hne : n ≠ BitVec.intMin 32 ∨ d ≠ -1#32 := not_and_or.mp h
  rw [signedQuotient, BitVec.toInt_ofInt, ← BitVec.toInt_sdiv, BitVec.toInt_sdiv_of_ne_or_ne n d hne]

theorem toInt_signedRemainder (n d : Word) : (signedRemainder n d).toInt = n.toInt.tmod d.toInt := by
  have htmod : n.toInt - n.toInt.tdiv d.toInt * d.toInt = n.toInt.tmod d.toInt := by
    rw [Int.tmod_def, Int.mul_comm]
  rw [signedRemainder, htmod, ← BitVec.toInt_srem, BitVec.ofInt_toInt]

/-! ## Writes of the pair -/

theorem retire_setHiLo (hi lo : Word) (s : State) : WritesHiLo (retire (s.setHiLo (some hi) (some lo) true)) s hi lo :=
  ⟨_, rfl, rfl, rfl, rfl, fun _ _ => rfl, ⟨rfl, rfl⟩, ⟨rfl, rfl, rfl, rfl, rfl, rfl, rfl⟩, fun _ => rfl,
    ⟨rfl, rfl, rfl, rfl, rfl⟩, rfl⟩

/-- A 64-bit result. -/
theorem retire_setAcc (v : BitVec 64) (s : State) : ∃ hi lo, WritesHiLo (retire (s.setAcc v)) s hi lo ∧ hi ++ lo = v :=
  ⟨_, _, retire_setHiLo _ _ s, high_append_low v⟩

/-- Settles O19. -/
theorem multiplyResults : Obligations.MultiplyResults := by
  intro s rd rs rt
  refine ⟨?mult, ?multu, ?mul⟩
  case mult =>
    obtain ⟨hi, lo, hwrites, hv⟩ := retire_setAcc (signedProduct (s.reg rs) (s.reg rt)) s
    exact ⟨hi, lo, hwrites, hv ▸ toInt_signedProduct _ _⟩
  case multu =>
    obtain ⟨hi, lo, hwrites, hv⟩ := retire_setAcc (unsignedProduct (s.reg rs) (s.reg rt)) s
    exact ⟨hi, lo, hwrites, hv ▸ toNat_unsignedProduct _ _⟩
  case mul =>
    obtain ⟨t, hnext, hreg, honly, ⟨⟨hhi, hlo, hunread⟩, hlink, hsys, hmem⟩, hseq, hhaz⟩ :=
      writeReg_writes_of_eq (setWidth_signedProduct (s.reg rs) (s.reg rt)) rd (s.setHiLo none none false)
    exact ⟨t, hnext, hreg, honly, hhi, hlo, hunread, hlink, hsys, hmem, hseq, hhaz⟩

/-- A multiply-accumulate where HI and LO hold a value. -/
theorem withValue_acc_writes {s : State} {h l : Word} (hh : s.hi = some h) (hl : s.lo = some l)
    {f : BitVec 64 → BitVec 64} {v : BitVec 64} (hv : f (h ++ l) = v) :
    ∃ hi lo, WritesHiLo (withValue s.acc fun a => retire (s.setAcc (f a))) s hi lo ∧ hi ++ lo = v := by
  rw [State.acc_some hh hl, ← hv]
  exact retire_setAcc _ s

/-- Settles O20. -/
theorem accumulateResults : Obligations.AccumulateResults := by
  intro s rs rt a b leaves
  refine ⟨fun h l hh hl => ⟨?madd, ?maddu, ?msub, ?msubu⟩, fun hnone => ?stops⟩
  case madd =>
    exact withValue_acc_writes (f := (· + signedProduct a b)) hh hl
      (by rw [BitVec.ofInt_add, BitVec.ofInt_toInt, signedProduct_eq_ofInt])
  case maddu =>
    exact withValue_acc_writes (f := (· + unsignedProduct a b)) hh hl
      (by rw [BitVec.ofNat_add, BitVec.ofNat_toNat, BitVec.setWidth_eq, unsignedProduct_eq_ofNat])
  case msub =>
    exact withValue_acc_writes (f := (· - signedProduct a b)) hh hl
      (by rw [Int.sub_eq_add_neg, BitVec.ofInt_add, BitVec.ofInt_toInt, BitVec.ofInt_neg, signedProduct_eq_ofInt,
        BitVec.sub_eq_add_neg])
  case msubu =>
    exact withValue_acc_writes (f := (· - unsignedProduct a b)) hh hl
      (by rw [Int.sub_eq_add_neg, BitVec.ofInt_add, BitVec.ofInt_neg, BitVec.ofInt_natCast, BitVec.ofInt_natCast,
        BitVec.ofNat_toNat, BitVec.setWidth_eq, unsignedProduct_eq_ofNat, BitVec.sub_eq_add_neg])
  case stops =>
    have hacc := State.acc_none hnone
    have hstops : ∀ k : BitVec 64 → Out, withValue s.acc k = .fault .noValue := fun k => by rw [hacc]; rfl
    simp only [List.forall_mem_cons, List.not_mem_nil, false_imp_iff, implies_true, and_true]
    exact ⟨hstops _, hstops _, hstops _, hstops _⟩

/-- Settles O21. -/
theorem divideResults : Obligations.DivideResults := by
  intro s rs rt n d
  refine ⟨?div, ?divu⟩
  case div =>
    by_cases hundef : d = 0 ∨ n = 0x80000000 ∧ d = 0xFFFFFFFF
    · have hexec : exec (.div rs rt) s = retire (setOpenQuotient s) := if_pos (by simpa using hundef)
      refine ⟨_, _, hexec ▸ retire_setHiLo _ _ s, fun hd hover => ?_⟩
      exact absurd hundef (not_or.mpr ⟨hd, hover⟩)
    · have hexec : exec (.div rs rt) s = retire (setQuotient (signedQuotient n d) (signedRemainder n d) s) :=
        if_neg (by simpa using hundef)
      refine ⟨_, _, hexec ▸ retire_setHiLo _ _ s, fun hd hover => ?_⟩
      rw [toInt_signedQuotient hover, toInt_signedRemainder]
      have hd' : d.toInt ≠ 0 := fun h => hd (BitVec.eq_of_toInt_eq h)
      refine ⟨(Int.tdiv_mul_add_tmod _ _).symm, ?_, fun hn => Int.tmod_nonneg _ hn, fun hn => ?_⟩
      · rw [Int.natAbs_tmod]
        exact Nat.mod_lt _ (Int.natAbs_pos.mpr hd')
      · have hneg := Int.tmod_nonneg d.toInt (Int.neg_nonneg.mpr hn)
        rw [Int.neg_tmod] at hneg
        omega
  case divu =>
    by_cases hd : d = 0
    · have hexec : exec (.divu rs rt) s = retire (setOpenQuotient s) := if_pos hd
      exact ⟨_, _, hexec ▸ retire_setHiLo _ _ s, fun h => absurd hd h⟩
    · have hexec : exec (.divu rs rt) s =
          retire (setQuotient (BitVec.ofNat 32 (n.toNat / d.toNat)) (BitVec.ofNat 32 (n.toNat % d.toNat)) s) :=
        if_neg hd
      refine ⟨_, _, hexec ▸ retire_setHiLo _ _ s, fun _ => ?_⟩
      have hpos : 0 < d.toNat := Nat.pos_of_ne_zero fun h => hd (BitVec.eq_of_toNat_eq h)
      have hq : n.toNat / d.toNat < 2 ^ 32 := Nat.lt_of_le_of_lt (Nat.div_le_self _ _) n.isLt
      have hr : n.toNat % d.toNat < d.toNat := Nat.mod_lt _ hpos
      rw [BitVec.toNat_ofNat, BitVec.toNat_ofNat, Nat.mod_eq_of_lt hq, Nat.mod_eq_of_lt (hr.trans d.isLt)]
      exact ⟨(Nat.div_add_mod' _ _).symm, hr⟩

/-- Settles O22. -/
theorem hiLoMoves : Obligations.HiLoMoves := by
  intro s r
  have hstops : ∀ k : Word → Out, withValue none k = .fault .noValue := fun _ => rfl
  refine ⟨fun h hh => ?mfhi, fun hh => ?nohi, fun l hl => ?mflo, fun hl => ?nolo, retire_passes _, retire_passes _⟩
  case mfhi =>
    have hexec : exec (.mfhi r) s = writeReg r h (s.setHiLo s.hi s.lo false) :=
      show withValue s.hi _ = _ by rw [hh]; rfl
    exact hexec ▸ writeReg_writes r h _
  case nohi => exact show withValue s.hi _ = _ by rw [hh]; exact hstops _
  case mflo =>
    have hexec : exec (.mflo r) s = writeReg r l (s.setHiLo s.hi s.lo false) :=
      show withValue s.lo _ = _ by rw [hl]; rfl
    exact hexec ▸ writeReg_writes r l _
  case nolo => exact show withValue s.lo _ = _ by rw [hl]; exact hstops _

end Sys2Proof.Machine
end

section
/-! PROOFS. The branches and jumps (43_branch_jump.md), and the barriers SSNOP, SYNC and EHB. -/

namespace Sys2Proof.Machine

/-! ## Conditions and targets -/

theorem bit_sign (a : Word) : bit a 31 = decide (a.toInt < 0) :=
  (BitVec.msb_eq_getLsbD_last a).symm.trans BitVec.msb_eq_toInt

theorem belowZero_eq (a : Word) : belowZero a = decide (a.toInt < 0) := bit_sign a

theorem atLeastZero_eq (a : Word) : atLeastZero a = decide (0 ≤ a.toInt) := by
  rw [atLeastZero, bit_sign, ← decide_not, decide_eq_decide, Int.not_lt]

theorem atMostZero_eq (a : Word) : atMostZero a = decide (a.toInt ≤ 0) := by
  have hzero : a = 0 ↔ a.toInt = 0 := (BitVec.toInt_inj (y := 0)).symm
  rw [atMostZero, bit_sign, beq_eq_decide, ← Bool.decide_or, decide_eq_decide, hzero]
  omega

theorem aboveZero_eq (a : Word) : aboveZero a = decide (0 < a.toInt) := by
  have h : aboveZero a = !atMostZero a := by simp [aboveZero, atMostZero, bne]
  rw [h, atMostZero_eq, ← decide_not, decide_eq_decide, Int.not_le]

theorem bne_eq_decide_ne (a b : Word) : (a != b) = decide (a ≠ b) := by rw [bne, beq_eq_decide, decide_not]

theorem State.branchTarget_eq (s : State) (offset : Half) :
    s.branchTarget offset = s.flow.pc + 4 + BitVec.ofInt 32 (4 * offset.toInt) := by
  have hsext : sext (offset ++ 0#2) = BitVec.ofInt 32 (4 * offset.toInt) := by
    rw [sext, BitVec.signExtend, BitVec.toInt_append_zero, show (2 : Int) ^ 2 = 4 from rfl, Int.mul_comm]
  rw [State.branchTarget, hsext]

theorem bit_ofNat_four_mul {n : Nat} (v : BitVec n) {k : Nat} (hk : k < 32) :
    bit (BitVec.ofNat 32 (4 * v.toNat)) k = (decide (2 ≤ k) && v.getLsbD (k - 2)) := by
  have hshift : BitVec.ofNat 32 (4 * v.toNat) = v.setWidth 32 <<< 2 := by
    rw [shiftLeft_eq_ofNat, BitVec.toNat_setWidth]
    apply BitVec.eq_of_toNat_eq
    rw [BitVec.toNat_ofNat, BitVec.toNat_ofNat]
    omega
  rw [hshift, bit_shiftLeft _ _ hk, bit_setWidth _ (by omega)]

theorem State.jumpTarget_eq (s : State) (index : BitVec 26) :
    s.jumpTarget index = ((s.flow.pc + 4) &&& 0xF0000000) ||| BitVec.ofNat 32 (4 * index.toNat) := by
  apply word_eq_of_bit_eq; intro k hk
  have hregion : bit 0xF0000000 k = decide (28 ≤ k ∧ k < 28 + 4) := bit_fieldMask 28 4 hk
  have happend : bit (s.jumpTarget index) k =
      if k < 2 then false else if k < 28 then index.getLsbD (k - 2) else bit (s.flow.pc + 4) k := by
    rw [State.jumpTarget, bit, BitVec.getLsbD_append]
    split
    next => exact BitVec.getLsbD_zero
    next h2 =>
      rw [BitVec.getLsbD_append]
      split
      next h28 => rw [if_pos (by omega)]
      next h28 => rw [if_neg (by omega), getLsbD_field _ _ _ (by omega)]; congr 1; omega
  rw [happend, bit_or, bit_and, hregion, bit_ofNat_four_mul _ hk]
  split
  next h2 => simp [show ¬2 ≤ k by omega, show ¬28 ≤ k by omega]
  next h2 =>
    split
    next h28 => simp [show 2 ≤ k by omega, show ¬28 ≤ k by omega]
    next h28 =>
      have hbeyond : index.getLsbD (k - 2) = false := BitVec.getLsbD_of_ge _ _ (by omega)
      simp [hbeyond, show 28 ≤ k by omega, hk]

/-! ## How a transfer of control ends -/

/-- A new flow of control and nothing else. -/
theorem moves_setFlow (s : State) (f : Flow) : Moves (.next (s.setFlow f)) s f :=
  ⟨_, rfl, rfl, fun _ _ => rfl, SameRest.refl s, rfl⟩

/-- A register result leaves the rest of the state. -/
theorem SameRest.setReg (s : State) (r : Reg) (v : Word) : SameRest s (s.setReg r v) := by
  refine ⟨⟨?_, ?_, ?_⟩, ⟨?_, ?_⟩, ⟨?_, ?_, ?_, ?_, ?_, ?_, ?_⟩, fun a => ?_⟩ <;> simp

/-- A new flow of control and a link. -/
theorem links_setReg_setFlow (s : State) (rd : Reg) (v : Word) (f : Flow) :
    Links (.next ((s.setReg rd v).setFlow f)) s rd v f := by
  refine ⟨_, rfl, rfl, ?reg, ?only, SameRest.setReg s rd v, State.setReg_hz s rd v⟩
  case reg => exact (State.reg_congr (s := s.setReg rd v) rfl rfl rd).trans (State.reg_setReg_self s rd v)
  case only =>
    intro set r h
    exact (State.sreg_congr (s := s.setReg rd v) rfl set r).trans (State.sreg_setReg_other s rd v set r h)

section
variable {s : State} (hds : s.flow.inDs = false)
include hds

theorem branchOn_moves {c d : Bool} (hc : c = d) (offset : Half) :
    Moves (branchOn c offset s) s
      (slotThen s (if d then s.flow.pc + 4 + BitVec.ofInt 32 (4 * offset.toInt) else s.flow.npc + 4)
        s.flow.npcIsa) := by
  rw [branchOn, outsideSlot_of_not hds, State.branchTarget_eq, hc]
  exact moves_setFlow s _

theorem branchOn_links {c d : Bool} (hc : c = d) (offset : Half) :
    Links (branchOn c offset s.linked) s 31 (s.flow.pc + 8)
      (slotThen s (if d then s.flow.pc + 4 + BitVec.ofInt 32 (4 * offset.toInt) else s.flow.npc + 4)
        s.flow.npcIsa) := by
  have hflow : s.linked.flow = s.flow := State.setReg_flow ..
  rw [branchOn, outsideSlot_of_not (by rw [hflow]; exact hds), State.branchTarget_eq, hc, branchTo, hflow]
  exact links_setReg_setFlow s 31 _ _

/-- A likely branch: the flow of control after it. -/
theorem likelyOn_moves {c d : Bool} (hc : c = d) (offset : Half) :
    Moves (likelyOn c offset s) s
        (if d then slotThen s (s.flow.pc + 4 + BitVec.ofInt 32 (4 * offset.toInt)) s.flow.npcIsa
          else ⟨s.flow.npc + 4, s.flow.npc + 8, s.flow.npcIsa, false, s.flow.npcIsa⟩) ∧
      (d = true → likelyOn c offset s = branchOn c offset s) := by
  rw [likelyOn, outsideSlot_of_not hds, State.branchTarget_eq, hc]
  cases d
  · exact ⟨moves_setFlow s _, nofun⟩
  · refine ⟨moves_setFlow s _, fun _ => ?_⟩
    rw [branchOn, outsideSlot_of_not hds, State.branchTarget_eq]; rfl

theorem likelyOn_links {c d : Bool} (hc : c = d) (offset : Half) :
    Links (likelyOn c offset s.linked) s 31 (s.flow.pc + 8)
        (if d then slotThen s (s.flow.pc + 4 + BitVec.ofInt 32 (4 * offset.toInt)) s.flow.npcIsa
          else ⟨s.flow.npc + 4, s.flow.npc + 8, s.flow.npcIsa, false, s.flow.npcIsa⟩) ∧
      (d = true → likelyOn c offset s.linked = branchOn c offset s.linked) := by
  have hflow : s.linked.flow = s.flow := State.setReg_flow ..
  have hlinked : s.linked.flow.inDs = false := by rw [hflow]; exact hds
  rw [likelyOn, outsideSlot_of_not hlinked, State.branchTarget_eq, hc]
  cases d
  · rw [branchLikelyTo, hflow]
    exact ⟨links_setReg_setFlow s 31 _ _, nofun⟩
  · refine ⟨?_, fun _ => ?_⟩
    · rw [branchLikelyTo, branchTo, hflow]
      exact links_setReg_setFlow s 31 _ _
    · rw [branchOn, outsideSlot_of_not hlinked, State.branchTarget_eq]; rfl

end

theorem linkFrom_of_ne {rs : Reg} (h : rs ≠ 31) (k : Out) : linkFrom rs k = k := if_neg h

/-! ## The statements on branches and jumps -/

/-- Settles O23. -/
theorem plainBranches : Obligations.PlainBranches := by
  intro s rs rt offset hds target v after branches links
  refine ⟨branchOn_moves hds rfl offset, branchOn_moves hds (beq_eq_decide ..) offset,
    branchOn_moves hds (bne_eq_decide_ne ..) offset, branchOn_moves hds (atLeastZero_eq _) offset,
    branchOn_moves hds (aboveZero_eq _) offset, branchOn_moves hds (atMostZero_eq _) offset,
    branchOn_moves hds (belowZero_eq _) offset, branchOn_links hds rfl offset, fun hrs => ⟨?bgezal, ?bltzal⟩⟩
  case bgezal =>
    simp only [links, show exec (.bgezal rs offset) s = _ from linkFrom_of_ne hrs _]
    exact branchOn_links hds (atLeastZero_eq _) offset
  case bltzal =>
    simp only [links, show exec (.bltzal rs offset) s = _ from linkFrom_of_ne hrs _]
    exact branchOn_links hds (belowZero_eq _) offset

/-- Settles O24. -/
theorem likelyBranches : Obligations.LikelyBranches := by
  intro s rs rt offset hds v target skipped likely linking
  refine ⟨likelyOn_moves hds (beq_eq_decide ..) offset, likelyOn_moves hds (bne_eq_decide_ne ..) offset,
    likelyOn_moves hds (atLeastZero_eq _) offset, likelyOn_moves hds (aboveZero_eq _) offset,
    likelyOn_moves hds (atMostZero_eq _) offset, likelyOn_moves hds (belowZero_eq _) offset,
    fun hrs => ⟨?bgezall, ?bltzall⟩⟩
  case bgezall =>
    simp only [linking, show exec (.bgezall rs offset) s = _ from linkFrom_of_ne hrs _,
      show exec (.bgezal rs offset) s = _ from linkFrom_of_ne hrs _]
    exact likelyOn_links hds (atLeastZero_eq _) offset
  case bltzall =>
    simp only [linking, show exec (.bltzall rs offset) s = _ from linkFrom_of_ne hrs _,
      show exec (.bltzal rs offset) s = _ from linkFrom_of_ne hrs _]
    exact likelyOn_links hds (belowZero_eq _) offset

/-- Settles O25. -/
theorem jumps : Obligations.Jumps := by
  intro s index rd rs hds target v there pending
  have hout : ∀ k, outsideSlot s k = k := outsideSlot_of_not hds
  have hflow : ∀ (w : Word), (s.setReg rd w).flow = s.flow := fun w => State.setReg_flow ..
  refine ⟨?j, ?jal, ?jr, ?jrHb, fun hne => ⟨?jalr, ?jalrHb⟩⟩
  case j =>
    rw [show exec (.j index) s = _ from hout _, State.jumpTarget_eq]
    exact moves_setFlow s _
  case jal =>
    rw [show exec (.jal index) s = _ from hout _, State.jumpTarget_eq, jumpTo, State.linked, State.setReg_flow]
    exact links_setReg_setFlow s 31 _ _
  case jr =>
    rw [show exec (.jr rs) s = _ from hout _]
    exact moves_setFlow s there
  case jrHb =>
    rw [show exec (.jrHb rs) s = _ from hout _]
    exact moves_setFlow pending there
  case jalr =>
    rw [show exec (.jalr rd rs) s = _ from (if_neg hne).trans (hout _), jumpToWord, jumpTo, State.setReg_flow]
    exact links_setReg_setFlow s rd _ there
  case jalrHb =>
    have hbarrier : (s.setReg rd s.linkAddress).setBarrier = pending.setReg rd s.linkAddress := by
      simp only [State.setBarrier, State.setReg, State.setSreg, State.setHz_hz, pending]
      split <;> rfl
    rw [show exec (.jalrHb rd rs) s = _ from (if_neg hne).trans (hout _), jumpToWord, jumpTo, hbarrier,
      State.setReg_flow]
    exact links_setReg_setFlow pending rd _ there

/-- Settles O26. -/
theorem unpredictableStops : Obligations.UnpredictableStops := by
  refine ⟨?slot, ?classRow, fun _ _ => ⟨rfl, rfl, rfl, rfl⟩, fun _ _ => ⟨if_pos rfl, if_pos rfl⟩⟩
  case slot =>
    intro i s hi hp hds
    have hlinked : s.linked.flow.inDs = true := by rw [State.linked, State.setReg_flow]; exact hds
    cases i with
    | b | beq | bne | bgez | bgtz | blez | bltz | beql | bnel | bgezl | bgtzl | blezl | bltzl | j | jal | jr | jrHb
    | eret | deret | wait | jalrc | jrc => exact outsideSlot_of_slot hds _
    | bal => exact outsideSlot_of_slot hlinked _
    | bgezal rs | bltzal rs | bgezall rs | bltzall rs =>
      exact (linkFrom_of_ne (bne_iff_ne.mp hp) _).trans (outsideSlot_of_slot hlinked _)
    | jalr rd rs | jalrHb rd rs => exact (if_neg (bne_iff_ne.mp hp)).trans (outsideSlot_of_slot hds _)
    | _ => cases hi
  case classRow =>
    intro s cofun hfun hds
    show execCop0 cofun s = _
    rw [execCop0, waitOperation, eretOperation, deretOperation, outsideSlot_of_slot hds, outsideSlot_of_slot hds,
      outsideSlot_of_slot hds]
    by_cases hwait : cofun.extractLsb' 0 6 = 0x20
    · exact if_pos hwait
    · rw [if_neg hwait]
      by_cases heret : cofun = 0x18
      · exact if_pos heret
      · have hderet : cofun = 0x1F := (hfun.resolve_left heret).resolve_right hwait
        exact (if_neg heret).trans (if_pos hderet)

/-! ## Barriers -/

/-- Settles O18: what ends in sequence in the slot ended by `Next`, which empties the record, or by an exception. -/
theorem barrierInstructions : Obligations.BarrierInstructions := by
  refine ⟨fun s stype => ⟨retire_passes s, retire_passes s, ?ehb⟩, ?nop, ?slot⟩
  case ehb =>
    obtain ⟨t, hnext, hregs, hrest, hseq, hhaz⟩ := retire_passes (s.setHz { s.hz with hazard := [] })
    refine ⟨t, hnext, hregs, hrest, hseq, ?_, fun h => ?_⟩
    · rw [hhaz]; split <;> rfl
    · exact hhaz.trans (if_neg (by rcases h with h | h <;> simp [h]))
  case nop =>
    intro s hds hpending
    exact ⟨_, rfl, if_pos (by rw [hds, hpending]; rfl), rfl⟩
  case slot =>
    intro i s t hlegal hds hpending hexec hseq
    obtain ⟨u, hwork, hends⟩ := exec_next hexec
    cases hends with
    | next =>
      have huds : u.flow.inDs = true := hwork.inDs.trans hds
      exact if_pos (by rw [huds, hwork.hbPending, hpending]; rfl)
    | raise e he => exact (takeException_frame he).2.2.2.2.2.1
    | next16 len =>
      obtain ⟨hpc, hnpc, -, hisa, -⟩ := hseq
      have hmode : s.flow.isaMode = false := (hlegal.2.2.2.1 hds).1
      have hpc' : s.flow.pc + len = s.flow.npc := hwork.flow ▸ hpc
      have hnpc' : s.flow.pc + len + 2 = s.flow.npc + instrStep s.flow.npcIsa := hwork.flow ▸ hnpc
      have hisa' : s.flow.npcIsa = false := (hwork.flow ▸ hisa : s.flow.isaMode = _).symm.trans hmode
      rw [hpc', hisa'] at hnpc'
      exact absurd ((BitVec.add_right_inj _).mp hnpc') (by decide)
    | wait _ _ hout | slot _ _ _ _ hout | skip _ hout | compactJump _ hout | eret _ hout | deret _ hout =>
      rw [hds] at hout; cases hout

end Sys2Proof.Machine
end

section
/-! PROOFS. MFC0 and MTC0 and the bits they read and write (46_cop0_privileged.md R302, R303). -/

namespace Sys2Proof.Machine

/-! ## Reads (R302, R352) -/

theorem execMfc0_some {s : State} (hu : s.cop0Usable = true) {rd : BitVec 5} {sel : BitVec 3} {r : CpReg}
    (hr : CpRegOf rd sel = some r) (rt : Reg) : exec (.mfc0 rt rd sel) s = writeReg rt (s.readCp0 r) s := by
  show execMfc0 rt rd sel s = _
  rw [execMfc0, withCop0_usable hu, hr]

theorem execMfc0_none {s : State} (hu : s.cop0Usable = true) {rd : BitVec 5} {sel : BitVec 3}
    (hr : CpRegOf rd sel = none) (rt : Reg) : exec (.mfc0 rt rd sel) s = writeReg rt (s.free .absentCp0) s := by
  show execMfc0 rt rd sel s = _
  rw [execMfc0, withCop0_usable hu, hr]

theorem State.readCp0_viewed (s : State) {r : CpReg} (hc : r ≠ .count) (hl : r ≠ .llAddr) :
    s.readCp0 r = s.viewed r id := by
  cases r with
  | count => exact absurd rfl hc
  | llAddr => exact absurd rfl hl
  | _ => rfl

/-- The bits of Cause as it shows: the stored ones, CE and the request lines. -/
theorem State.bit_causeWord (s : State) (w : Word) {k : Nat} (hk : k < 32) :
    bit (s.causeWord w) k =
      (bit w k || (decide (28 ≤ k) && s.cp0.causeCE.getLsbD (k - 28)) ||
        (decide (10 ≤ k) && (s.requestLines w).getLsbD (k - 10))) := by
  rw [State.causeWord, bit_or, bit_or, bit_shiftLeft _ _ hk, bit_shiftLeft _ _ hk, zext, zext,
    bit_setWidth _ (by omega), bit_setWidth _ (by omega)]

theorem State.getLsbD_timerLine (s : State) {k : Nat} (hk : k < 6) :
    s.timerLine.getLsbD k = ((field s.cp0.intCtl 29 3).toNat == k + 2) := by
  have hone : ∀ n : Fin 8, ∀ j : Fin 6, ((1#8 <<< n.val).extractLsb' 2 6).getLsbD j.val = (n.val == j.val + 2) := by
    decide
  exact hone ⟨_, (field s.cp0.intCtl 29 3).isLt⟩ ⟨k, hk⟩

/-- The request lines as Cause shows them, in the mode of the interrupts and with the timer request. -/
theorem State.getLsbD_requestLines {s : State} (h : s.hz.hazard = []) (ca : Word) {k : Nat} (hk : k < 6) :
    (s.requestLines ca).getLsbD k =
      (s.port.lines.getLsbD k ||
        bit ca 30 &&
            !(bit s.cp0.config3 6 && bit ca 23 && !statusBEV s.cp0.status && field s.cp0.intCtl 5 5 != 0) &&
          (field s.cp0.intCtl 29 3).toNat == k + 2) := by
  have hmode : s.eicMode ca =
      (bit s.cp0.config3 6 && bit ca 23 && !statusBEV s.cp0.status && field s.cp0.intCtl 5 5 != 0) := by
    simp only [State.eicMode, State.eicModeUnder, State.viewedStored_settled h, State.stored]
  rw [State.requestLines, hmode]
  cases bit ca 30 <;>
    cases bit s.cp0.config3 6 && bit ca 23 && !statusBEV s.cp0.status && field s.cp0.intCtl 5 5 != 0 <;>
    simp [s.getLsbD_timerLine hk]

/-- A bit of a word that a mask excludes. -/
theorem bit_eq_false_of_and {w m : Word} (h : w &&& m = 0) {k : Nat} (hk : bit m k = true) : bit w k = false := by
  have hbit : bit (w &&& m) k = bit 0 k := by rw [h]
  rw [bit_and, hk, Bool.and_true] at hbit
  exact hbit.trans BitVec.getLsbD_zero

/-- Settles O44. -/
theorem moveFromCop0 : Obligations.MoveFromCop0 := by
  intro s rt rd sel hu
  refine ⟨?some, fun r hr hc hl => ⟨?view, fun hlook => ?current⟩, fun hrd hsel hhaz hca => ?cause⟩
  case some =>
    cases hr : CpRegOf rd sel with
    | some r => exact ⟨_, execMfc0_some hu hr rt ▸ writeReg_writes ..⟩
    | none => exact ⟨_, execMfc0_none hu hr rt ▸ writeReg_writes ..⟩
  case view =>
    refine ⟨s.viewed r id, s.viewed_cases r id, ?_⟩
    rw [execMfc0_some hu hr, s.readCp0_viewed hc hl]
    exact writeReg_writes ..
  case current =>
    have hearlier : s.earlierReg r = s.cpReg r := by simp [State.earlierReg, State.earlierStored, hlook, State.cpReg]
    have hview : s.viewed r id = s.cpReg r := (s.viewed_cases r id).elim id fun h => h.trans hearlier
    rw [execMfc0_some hu hr, s.readCp0_viewed hc hl, hview]
    exact writeReg_writes ..
  case cause =>
    subst hrd hsel
    have hread : s.readCp0 .cause = s.causeWord s.cp0.cause := State.viewed_settled hhaz .cause id
    refine ⟨s.causeWord s.cp0.cause, ?_, ?ce, ?lines, ?rest⟩
    · rw [execMfc0_some hu (r := .cause) rfl, hread]
      exact writeReg_writes ..
    case ce =>
      apply BitVec.eq_of_getLsbD_eq; intro k hk
      have hzero : bit s.cp0.cause (28 + k) = false := bit_eq_false_of_and hca (by interval_cases k <;> decide)
      have hline : (s.requestLines s.cp0.cause).getLsbD (28 + k - 10) = false := BitVec.getLsbD_of_ge _ _ (by omega)
      rw [getLsbD_field _ _ _ hk, s.bit_causeWord _ (by omega), hzero, hline, Nat.add_sub_cancel_left]
      simp
    case lines =>
      intro k hk
      have hzero : bit s.cp0.cause (10 + k) = false := bit_eq_false_of_and hca (by interval_cases k <;> decide)
      rw [s.bit_causeWord _ (by omega), hzero, Nat.add_sub_cancel_left, State.getLsbD_requestLines hhaz _ hk]
      simp [show ¬28 ≤ 10 + k by omega]
    case rest =>
      intro k hk
      by_cases h32 : k < 32
      · have hline : (decide (10 ≤ k) && (s.requestLines s.cp0.cause).getLsbD (k - 10)) = false := by
          by_cases h10 : 10 ≤ k
          · rw [BitVec.getLsbD_of_ge _ _ (by omega), Bool.and_false]
          · simp [h10]
        have hce : (decide (28 ≤ k) && s.cp0.causeCE.getLsbD (k - 28)) = false := by
          by_cases h28 : 28 ≤ k
          · rw [BitVec.getLsbD_of_ge _ _ (by omega), Bool.and_false]
          · simp [h28]
        rw [s.bit_causeWord _ h32, hline, hce, Bool.or_false, Bool.or_false]
      · rw [bit_above _ _ (by omega), bit_above _ _ (by omega)]

/-! ## Writes (R303, R408) -/

/-- What a write records as an instruction hazard. -/
theorem noteHazard_ihazard (h : Hazards) (r : CpReg) (old new : Word) :
    (noteHazard h r old new).ihazard =
      if r = .status ∧ h.ihazard = none ∧
          (bit old 4 ≠ bit new 4 ∨ bit old 1 ≠ bit new 1 ∨ bit old 2 ≠ bit new 2) then some old else h.ihazard := by
  have hif : ∀ (c : Bool) (g : Hazards),
      (if c then { g with ihazard := some old } else g).ihazard = if c then some old else g.ihazard := by
    intro c g; split <;> rfl
  have hkeep : (if (h.hazard.lookup r).isSome then h else { h with hazard := (r, old) :: h.hazard }).ihazard =
      h.ihazard := by split <;> rfl
  simp only [noteHazard, hif, hkeep]
  congr 1
  simp [statusUM, statusEXL, statusERL, or_assoc, and_assoc]

/-- The record after MTC0 wrote register r. -/
theorem State.writeCp0_hz (s : State) (r : CpReg) (x : Word) :
    (s.writeCp0 r x).hz =
      if r = .compare ∧ bit s.cp0.cause 30 = true then
        noteHazard (noteHazard s.hz r (s.stored r) (s.written r x)) .cause s.cp0.cause (setBit s.cp0.cause 30 false)
      else noteHazard s.hz r (s.stored r) (s.written r x) := by
  by_cases hr : r = .compare
  · subst hr
    simp only [State.writeCp0, Cp0.store, if_true, true_and, State.setHz_hz]
    rfl
  · simp [State.writeCp0, hr]

theorem State.lookup_writeCp0 (s : State) (r : CpReg) (x : Word) (q : CpReg) :
    (s.writeCp0 r x).hz.hazard.lookup q =
      if q = r ∨ (q = .cause ∧ r = .compare ∧ bit s.cp0.cause 30 = true) then
        some ((s.hz.hazard.lookup q).getD (s.stored q))
      else s.hz.hazard.lookup q := by
  rw [s.writeCp0_hz]
  split
  next h =>
    obtain ⟨rfl, htimer⟩ := h
    rw [lookup_noteHazard, lookup_noteHazard]
    cases q <;> simp [htimer, State.stored]
  next h =>
    have hq : q = r ∨ (q = .cause ∧ r = .compare ∧ bit s.cp0.cause 30 = true) ↔ q = r :=
      or_iff_left fun h' => h h'.2
    simp only [lookup_noteHazard, hq]
    split
    next h' => rw [h']
    next => rfl

theorem State.writeCp0_ihazard (s : State) (r : CpReg) (x : Word) :
    (s.writeCp0 r x).hz.ihazard =
      if r = .status ∧ s.hz.ihazard = none ∧
          (bit s.cp0.status 4 ≠ bit (s.written .status x) 4 ∨ bit s.cp0.status 1 ≠ bit (s.written .status x) 1 ∨
            bit s.cp0.status 2 ≠ bit (s.written .status x) 2) then some s.cp0.status else s.hz.ihazard := by
  rw [s.writeCp0_hz]
  by_cases hr : r = .status
  · subst hr
    rw [if_neg (by simp), noteHazard_ihazard]; rfl
  · split <;> simp [noteHazard_ihazard, hr]

theorem State.writeCp0_staleText (s : State) (r : CpReg) (x : Word) :
    (s.writeCp0 r x).hz.staleText = s.hz.staleText := by
  rw [s.writeCp0_hz]; split <;> simp

theorem State.writeCp0_causeCE (s : State) (r : CpReg) (x : Word) : (s.writeCp0 r x).cp0.causeCE = s.cp0.causeCE := by
  rw [s.writeCp0_cp0]; cases r <;> rfl

/-- A field that the mask covers, of a register without clear-only bits there, takes the value written. -/
theorem State.field_written_new (s : State) (r : CpReg) (x : Word) {lo n : Nat} (h : lo + n ≤ 32)
    (hm : ∀ k, k < n → bit (s.writeMask r) (lo + k) = true ∧ bit (clearOnlyMask r) (lo + k) = false) :
    field (s.written r x) lo n = field x lo n := by
  apply BitVec.eq_of_getLsbD_eq; intro k hk
  obtain ⟨hmask, hclear⟩ := hm k hk
  rw [getLsbD_field _ _ _ hk, getLsbD_field _ _ _ hk, s.bit_written r x (by omega), hmask, hclear]
  simp

theorem legalSpacing_iff (vs : BitVec 5) : legalSpacing vs = true ↔ vs.toNat ∈ [0, 1, 2, 4, 8, 16] := by
  revert vs; decide

theorem setsWithin_iff (hss : BitVec 4) (map : Word) :
    setsWithin hss map = true ↔ ∀ v, v < 8 → field map (4 * v) 4 ≤ hss := by
  simp [setsWithin]

theorem State.written_srsMap (s : State) (x : Word) :
    s.written .srsMap x = if s.hss = 0 then s.cp0.srsMap else x := by
  apply word_eq_of_bit_eq; intro k hk
  have hones : bit 0xFFFFFFFF k = true := by revert k; decide
  have hmask : s.writeMask .srsMap = if s.hss = 0 then 0 else 0xFFFFFFFF := rfl
  rw [s.bit_written _ _ hk, hmask]
  by_cases hhss : s.hss = 0
  · rw [if_pos hhss, if_pos hhss]; simp [clearOnlyMask, State.stored, bit]
  · rw [if_neg hhss, if_neg hhss, hones]; simp [clearOnlyMask, bit]

section
variable (s : State) (x : Word)

theorem State.writeFault_intCtl_iff :
    s.writeFault .intCtl (s.written .intCtl x) = none ↔ (field x 5 5).toNat ∈ [0, 1, 2, 4, 8, 16] := by
  rw [s.writeFault_intCtl, s.field_written_new .intCtl x (by omega) (by simp only [State.writeMask]; decide),
    legalSpacing_iff]

theorem State.writeFault_srsCtl_iff :
    s.writeFault .srsCtl (s.written .srsCtl x) = none ↔ field x 12 4 ≤ s.hss ∧ field x 6 4 ≤ s.hss := by
  rw [s.writeFault_srsCtl, s.field_written_new .srsCtl x (by omega) (by simp only [State.writeMask]; decide),
    s.field_written_new .srsCtl x (by omega) (by simp only [State.writeMask]; decide)]

theorem State.writeFault_srsMap_iff :
    s.writeFault .srsMap (s.written .srsMap x) = none ↔
      ∀ v, v < 8 → field (if s.hss = 0 then s.cp0.srsMap else x) (4 * v) 4 ≤ s.hss := by
  rw [s.writeFault_srsMap, s.written_srsMap, setsWithin_iff]

end

/-- The faults of a write, by the register. -/
theorem State.writeFault_cases (s : State) (r : CpReg) (w : Word) :
    s.writeFault r w = none ∨ (r = .intCtl ∧ s.writeFault r w = some .illegalVectorSpacing) ∨
      ((r = .srsCtl ∨ r = .srsMap) ∧ s.writeFault r w = some .shadowSetOutOfRange) := by
  cases r with
  | intCtl | srsCtl | srsMap => simp only [State.writeFault]; split <;> simp
  | _ => exact .inl rfl

section
variable {s : State} (hu : s.cop0Usable = true) {rd : BitVec 5} {sel : BitVec 3}
include hu

theorem execMtc0_none (hr : CpRegOf rd sel = none) (rt : Reg) : exec (.mtc0 rt rd sel) s = retire s := by
  show execMtc0 rt rd sel s = _
  rw [execMtc0, withCop0_usable hu, hr]

theorem execMtc0_fault {r : CpReg} (hr : CpRegOf rd sel = some r) {rt : Reg} {f : Fault}
    (hf : s.writeFault r (s.written r (s.reg rt)) = some f) : exec (.mtc0 rt rd sel) s = .fault f := by
  show execMtc0 rt rd sel s = _
  rw [execMtc0, withCop0_usable hu, hr]
  simp only [hf]

theorem execMtc0_write {r : CpReg} (hr : CpRegOf rd sel = some r) {rt : Reg}
    (hf : s.writeFault r (s.written r (s.reg rt)) = none) :
    exec (.mtc0 rt rd sel) s = .next (s.writeCp0 r (s.reg rt)).advance := by
  show execMtc0 rt rd sel s = _
  rw [execMtc0, withCop0_usable hu, hr]
  simp only [hf]
  rfl

end

/-- Settles O45. -/
theorem moveToCop0 : Obligations.MoveToCop0 := by
  intro s rt rd sel hu
  refine ⟨fun hr => execMtc0_none hu hr rt ▸ retire_passes s, fun r hr => ?_⟩
  intro x wrongSpacing wrongSet changes
  have hcases := s.writeFault_cases r (s.written r x)
  refine ⟨fun hwrong => ?spacing, fun hwrong => ?set, fun hspacing hset hmap => ?writes⟩
  case spacing =>
    obtain ⟨rfl, hvs⟩ := hwrong
    refine execMtc0_fault hu hr ?_
    rcases hcases with h | h | h
    · exact absurd ((s.writeFault_intCtl_iff x).mp h) hvs
    · exact h.2
    · simp at h
  case set =>
    refine execMtc0_fault hu hr ?_
    rcases hcases with h | ⟨rfl, -⟩ | h
    · rcases hwrong with ⟨rfl, hwrong⟩ | ⟨rfl, hhss, v, hv, hwrong⟩
      · obtain ⟨hess, hpss⟩ := (s.writeFault_srsCtl_iff x).mp h
        exact (hwrong.elim (BitVec.not_lt.mpr hess) (BitVec.not_lt.mpr hpss)).elim
      · have hfield := (s.writeFault_srsMap_iff x).mp h v hv
        rw [if_neg hhss] at hfield
        exact absurd hwrong (BitVec.not_lt.mpr hfield)
    · simp [wrongSet] at hwrong
    · exact h.2
  case writes =>
    have hf : s.writeFault r (s.written r x) = none := by
      rcases hcases with h | ⟨rfl, -⟩ | ⟨rfl | rfl, -⟩
      · exact h
      · exact (s.writeFault_intCtl_iff x).mpr (Classical.not_not.mp fun hvs => hspacing ⟨rfl, hvs⟩)
      · rw [s.writeFault_srsCtl_iff, ← BitVec.not_lt, ← BitVec.not_lt, ← not_or]
        exact fun hwrong => hset (.inl ⟨rfl, hwrong⟩)
      · rw [s.writeFault_srsMap_iff]
        intro v hv
        split
        next hhss => simp [hmap rfl hhss, hhss, field]
        next hhss => exact BitVec.not_lt.mp fun hwrong => hset (.inr ⟨rfl, hhss, v, hv, hwrong⟩)
    have hstored : ∀ q, ((s.writeCp0 r x).advance).stored q = (s.writeCp0 r x).stored q := fun q => by cases q <;> rfl
    refine ⟨_, execMtc0_write hu hr hf, ?self, ?other, s.writeCp0_causeCE r x, s.writeCp0_waiting r x,
      fun hds => ?record, fun set i => State.sreg_congr (s.writeCp0_regs r x) set i,
      ⟨s.writeCp0_hi r x, s.writeCp0_lo r x, s.writeCp0_hiloUnread r x⟩, ⟨s.writeCp0_llBit r x, s.writeCp0_llAddr r x⟩, ⟨s.writeCp0_platform r x,
        s.writeCp0_port r x, s.writeCp0_inputs r x, s.writeCp0_draws r x, s.writeCp0_stepped r x⟩,
      fun a => congrArg (readByte · a) (s.writeCp0_mem r x), ?seq⟩
    case self => rw [hstored, s.stored_writeCp0, if_pos rfl]
    case other => intro q hq; rw [hstored, s.stored_writeCp0, if_neg hq]
    case record =>
      have hhz : ((s.writeCp0 r x).advance).hz = (s.writeCp0 r x).hz := by simp [State.afterSlot, hds]
      rw [hhz]
      exact ⟨s.lookup_writeCp0 r x, s.writeCp0_ihazard r x, s.writeCp0_hbPending r x, s.writeCp0_staleText r x⟩
    case seq => simp [InSequence]

/-! ## The masks -/

section
variable (s : State) (x : Word) {r : CpReg}

/-- A register without clear-only bits, by its mask. -/
theorem State.bit_written_free (hc : clearOnlyMask r = 0) {p : Nat → Bool}
    (hm : ∀ i, i < 32 → bit (s.writeMask r) i = p i) :
    ∀ i, i < 32 → bit (s.written r x) i = if p i then bit x i else bit (s.stored r) i := by
  intro i hi
  rw [s.bit_written r x hi, hm i hi, hc]
  simp [bit]

/-- A register with clear-only bits, by its masks. -/
theorem State.bit_written_clears {p q : Nat → Bool} (hm : ∀ i, i < 32 → bit (s.writeMask r) i = (p i || q i))
    (hc : ∀ i, i < 32 → bit (clearOnlyMask r) i = q i) :
    ∀ i, i < 32 → bit (s.written r x) i =
      if q i then bit x i && bit (s.stored r) i else if p i then bit x i else bit (s.stored r) i := by
  intro i hi
  rw [s.bit_written r x hi, hm i hi, hc i hi]
  cases q i <;> simp

end

/-- Settles O46. -/
theorem writeMasks : Obligations.WriteMasks := by
  intro s x hstatus free
  have hall : ∀ i, i < 32 → bit 0xFFFFFFFF i = true := by decide
  have hnone : ∀ i, i < 32 → bit 0 i = false := by decide
  refine ⟨?all, ?none, ?status, ?cause, s.bit_written_free x rfl (by simp only [State.writeMask]; decide),
    s.bit_written_free x rfl (by simp only [State.writeMask]; decide), ?srsMap,
    s.bit_written_free x rfl (by simp only [State.writeMask]; decide),
    s.bit_written_free x rfl fun i hi => bit_setWidth _ hi,
    s.bit_written_free x rfl (by simp only [State.writeMask]; decide), ?debug⟩
  case all =>
    simp only [List.forall_mem_cons, List.not_mem_nil, false_imp_iff, implies_true, and_true]
    exact ⟨s.bit_written_free x rfl hall, s.bit_written_free x rfl hall, s.bit_written_free x rfl hall,
      s.bit_written_free x rfl hall, s.bit_written_free x rfl hall, s.bit_written_free x rfl hall⟩
  case none =>
    simp only [List.forall_mem_cons, List.not_mem_nil, false_imp_iff, implies_true, and_true]
    exact ⟨s.bit_written_free x rfl hnone, s.bit_written_free x rfl hnone, s.bit_written_free x rfl hnone,
      s.bit_written_free x rfl hnone, s.bit_written_free x rfl hnone, s.bit_written_free x rfl hnone⟩
  case status =>
    intro i hi
    rw [s.bit_written_clears (r := .status) x
      (p := fun i => decide (i ≤ 2 ∨ i = 4 ∨ (8 ≤ i ∧ i ≤ 15) ∨ i = 22 ∨ i = 27 ∨ i = 28))
      (q := fun i => decide (i = 19 ∨ i = 20 ∨ i = 21)) (by simp only [State.writeMask, hstatus]; decide)
      (by decide) i hi]
    simp only [decide_eq_true_eq]
    rfl
  case cause =>
    intro i hi
    rw [s.bit_written_clears (r := .cause) x (p := fun i => decide (i = 8 ∨ i = 9 ∨ i = 23 ∨ i = 27))
      (q := fun i => decide (i = 22)) (by simp only [State.writeMask]; decide) (by decide) i hi]
    simp only [decide_eq_true_eq]
    rfl
  case srsMap =>
    intro i hi
    rw [s.written_srsMap]
    by_cases hhss : s.hss = 0
    · rw [if_pos hhss, if_neg (by simp [hhss])]; rfl
    · rw [if_neg hhss, if_pos (bne_iff_ne.mpr hhss)]
  case debug =>
    intro i hi
    have htable : ∀ d b : Bool, ∀ i, i < 32 →
        bit (if d then (if b then 0x13300100 else 0x12100100) else 0) i =
          (d && (i == 8 || i == 20 || i == 25 || i == 28 || b && (i == 21 || i == 24))) := by decide
    have hclear : ∀ i, i < 32 → bit (clearOnlyMask .debug) i = (i == 24) := by decide
    rw [s.bit_written .debug x hi, show bit (s.writeMask .debug) i = _ from htable _ _ i hi, hclear i hi]
    by_cases h24 : i = 24
    · subst h24
      cases s.inDebug <;> cases s.platform.busErrorBits <;> simp [State.stored]
    · cases s.inDebug <;> cases s.platform.busErrorBits <;>
        simp [State.stored, h24, beq_eq_false_iff_ne.mpr h24, or_assoc]

end Sys2Proof.Machine
end

section
/-! PROOFS. The other coprocessor 0 instructions (46_cop0_privileged.md sections 4 to 7): DI and EI, ERET and DERET,
RDHWR, RDPGPR and WRPGPR. -/

namespace Sys2Proof.Machine

/-! ## DI and EI (R304, R305) -/

theorem setInterruptEnable_settled {s : State} (hu : s.cop0Usable = true) (h : s.hz.hazard = []) (enable : Bool)
    (rt : Reg) :
    setInterruptEnable enable rt s = writeReg rt s.cp0.status (s.withInterruptEnable enable) := by
  rw [setInterruptEnable, withCop0_usable hu, State.viewed_settled h, State.cpReg_status]; rfl

/-- A change of IE alone is a hazard of Status as a register, not of the mode. -/
theorem noteHazard_interruptEnable {h : Hazards} (hh : h.hazard = []) (status : Word) (enable : Bool) :
    noteHazard h .status status (setBit status 0 enable) = { h with hazard := [(.status, status)] } := by
  have hkept : ∀ k, k ≠ 0 → k < 32 → bit (setBit status 0 enable) k = bit status k := fun k hk hlt =>
    (bit_setBit _ _ _ _ hlt).trans (if_neg hk)
  simp only [noteHazard, statusUM, statusEXL, statusERL, hkept 4 (by omega) (by omega), hkept 1 (by omega) (by omega),
    hkept 2 (by omega) (by omega), hh]
  simp

/-- Settles O47. -/
theorem interruptEnable : Obligations.InterruptEnable := by
  intro s rt hu hhaz does
  have hdoes : ∀ i enable, exec i s = setInterruptEnable enable rt s → does i enable := by
    intro i enable hexec
    obtain ⟨t, hnext, hreg, honly, ⟨hhilo, hlink, ⟨hcp0, hwait, hplat⟩, hmem⟩, hseq, hhz⟩ :=
      writeReg_writes rt s.cp0.status (s.withInterruptEnable enable)
    have hstatus : t.cp0.status = setBit s.cp0.status 0 enable := congrArg Cp0.status hcp0
    refine ⟨t, hexec.trans ((setInterruptEnable_settled hu hhaz enable rt).trans hnext), hreg, honly, ?status, ?cp0,
      hwait, hhilo, hlink, hplat, hmem, hseq, fun hds => ?record⟩
    case status => intro k hk; rw [hstatus, bit_setBit _ _ _ _ hk]
    case cp0 => rw [hcp0]; rfl
    case record =>
      have hout : (s.withInterruptEnable enable).flow.inDs = false := hds
      rw [hhz, hout]
      exact noteHazard_interruptEnable hhaz s.cp0.status enable
  exact ⟨hdoes _ _ rfl, hdoes _ _ rfl⟩

/-! ## ERET and DERET (R306, R307) -/

theorem returnTo_flow (s : State) (w : Word) :
    (s.returnTo w).flow =
      ⟨w &&& 0xFFFFFFFE, (w &&& 0xFFFFFFFE) + (if bit w 0 then 2 else 4), bit w 0, false, bit w 0⟩ := rfl

/-- A register set number put back. -/
theorem setField_setField_field (w : Word) (lo : Nat) {n : Nat} (v : BitVec n) :
    setField (setField w lo v) lo (field w lo n) = w := by
  apply word_eq_of_bit_eq; intro k hk
  rw [bit_setField _ _ _ hk, bit_setField _ _ _ hk]
  split
  next hin => rw [getLsbD_field _ _ _ (by omega), Nat.add_sub_cancel' hin.1]
  next => rfl

/-- Settles O48. -/
theorem returnFromException_spec : Obligations.ReturnFromException := by
  intro s hds hhaz st erl there
  have hview : ∀ {α : Type} [DecidableEq α] (r : CpReg) (f : Word → α), s.viewed r f = f (s.cpReg r) :=
    fun r f => State.viewed_settled hhaz r f
  refine ⟨fun hu => ?eret, fun hd => ?deret, fun hready hu => ?reserved⟩
  case eret =>
    have hexec : exec .eret s = .next (returnFromException s) :=
      (outsideSlot_of_not hds _).trans (withCop0_usable hu _)
    refine ⟨_, hexec, rfl, rfl, ?flow, ?status, ?set, rfl, rfl, rfl, fun _ _ => rfl, ⟨rfl, rfl, rfl⟩,
      ⟨rfl, rfl, rfl, rfl, rfl⟩, fun _ => rfl⟩
    case flow =>
      simp only [returnFromException, hview, State.cpReg_status, State.cpReg_errorEpc, State.cpReg_epc, id]
      exact returnTo_flow s _
    case status =>
      intro k hk
      simp only [returnFromException, hview, State.cpReg_status]
      exact bit_setBit _ _ _ _ hk
    case set =>
      have hsrs : (returnFromException s).cp0.srsCtl =
          if erl = false ∧ s.hss ≠ 0 ∧ statusBEV st = false then setField s.cp0.srsCtl 0 s.pss else s.cp0.srsCtl := by
        simp only [returnFromException, hview, State.cpReg_status, State.cpReg_srsCtl, State.pss]
        congr 1
        simp [erl, st, and_assoc]
      split
      next hset =>
        rw [if_pos hset] at hsrs
        rw [State.css, hsrs]
        exact ⟨field_setField_self _ _ _ (by omega), setField_setField_field _ _ _⟩
      next hset => exact hsrs.trans (if_neg hset)
  case deret =>
    have hu : s.cop0Usable = true := by rw [State.cop0Usable, hd, Bool.true_or]
    have hexec : exec .deret s = .next (returnFromDebug s) :=
      (outsideSlot_of_not hds _).trans ((withCop0_usable hu _).trans (if_pos hd))
    have hdebug : ∀ k, k < 32 → bit (returnFromDebug s).cp0.debug k =
        if k = 20 then false else if k = 30 then false else bit s.cp0.debug k := by
      intro k hk
      exact (bit_setBit _ _ _ _ hk).trans (by rw [bit_setBit _ _ _ _ hk])
    refine ⟨_, hexec, hdebug 30 (by omega), hdebug 20 (by omega), fun k hk h30 h20 => ?bits, ?flow, rfl, rfl, rfl,
      fun _ _ => rfl, ⟨rfl, rfl, rfl⟩, ⟨rfl, rfl⟩, ⟨rfl, rfl, rfl, rfl, rfl⟩, fun _ => rfl⟩
    case bits => rw [hdebug k hk, if_neg h20, if_neg h30]
    case flow =>
      simp only [returnFromDebug, hview, State.cpReg_depc, id]
      exact returnTo_flow s _
  case reserved =>
    have hexec : exec .deret s = takeException .reservedInstruction s :=
      (outsideSlot_of_not hds _).trans ((withCop0_usable hu _).trans (if_neg (by simp [hready.2.1])))
    rw [hexec]
    exact takeException_enters hready (by decide) (by decide)

/-! ## RDHWR (R308) -/

theorem State.hwrAllowed_iff {s : State} (h : s.hz.hazard = []) (rd : BitVec 5) :
    s.hwrAllowed rd = true ↔ rd.toNat ≤ 3 ∧ s.platform.hwrenaImplMask.getLsbD rd.toNat = true ∧
      (s.inDebug = true ∨ kernelMode s.cp0.status = true ∨ statusCU0 s.cp0.status = true ∨
        bit s.cp0.hwrena rd.toNat = true) := by
  simp only [State.hwrAllowed, State.hwrExists, State.viewed_settled h, State.cpReg_status, State.cpReg_hwrena,
    Bool.and_eq_true, Bool.or_eq_true, decide_eq_true_eq, and_assoc, or_assoc]

/-- The low bits of a word. -/
theorem zext_field_low (w : Word) {n : Nat} (hn : n ≤ 32) : zext (field w 0 n) = w &&& lowOnes n := by
  apply word_eq_of_bit_eq; intro k hk
  rw [zext, bit_setWidth _ hk, bit_and, bit_lowOnes hn]
  by_cases h : k < n
  · rw [getLsbD_field _ _ _ h, Nat.zero_add]; simp [h]
  · rw [BitVec.getLsbD_of_ge _ _ (by omega)]; simp [h]

/-- Settles O49. -/
theorem hardwareRegisters : Obligations.HardwareRegisters := by
  intro s rt rd hhaz st allowed
  have hiff := State.hwrAllowed_iff hhaz rd
  refine ⟨fun hallowed => ?reads, fun hnot hready => ?reserved⟩
  case reads =>
    have hexec : exec (.rdhwr rt rd) s = writeReg rt (s.hwr rd) s := if_pos (hiff.mpr hallowed)
    rw [hexec]
    refine ⟨⟨_, writeReg_writes ..⟩, ?cpuNum, ?synciStep, ?ccRes⟩
    case cpuNum =>
      rintro rfl
      refine writeReg_writes_of_eq ?_ rt s
      exact (State.viewed_settled hhaz .ebase fun e => zext (field e 0 10)).trans (zext_field_low _ (by omega))
    case synciStep => rintro rfl; exact writeReg_writes ..
    case ccRes => rintro rfl; exact writeReg_writes ..
  case reserved =>
    have hexec : exec (.rdhwr rt rd) s = takeException .reservedInstruction s := if_neg (mt hiff.mp hnot)
    rw [hexec]
    exact takeException_enters hready (by decide) (by decide)

/-! ## RDPGPR and WRPGPR (R309, R310) -/

/-- Settles O50. -/
theorem shadowRegisters : Obligations.ShadowRegisters := by
  intro s rd rt hu hhaz
  have hpss : s.viewed .srsCtl (field · 6 4) = s.pss := State.viewed_settled hhaz .srsCtl _
  have hread : exec (.rdpgpr rd rt) s = writeReg rd (s.sreg s.pss rt) s := by
    show execRdpgpr rd rt s = _
    rw [execRdpgpr, withCop0_usable hu, hpss]
  have hwrite : exec (.wrpgpr rd rt) s = retire (s.setSreg s.pss rd (s.reg rt)) := by
    show execWrpgpr rd rt s = _
    rw [execWrpgpr, withCop0_usable hu, hpss]
  refine ⟨hread ▸ writeReg_writes .., ?_⟩
  obtain ⟨t, hnext, hregs, hrest, hseq, hhz⟩ := retire_passes (s.setSreg s.pss rd (s.reg rt))
  refine ⟨t, hwrite.trans hnext, ?self, ?other, ?rest, ?seq, ?hz⟩
  case self =>
    rw [hregs, s.sreg_setSreg]
    by_cases hrd : rd = 0
    · rw [if_neg (by simp [hrd]), if_pos hrd, hrd]; rfl
    · rw [if_pos ⟨rfl, rfl, hrd⟩, if_neg hrd]
  case other =>
    intro set r h
    rw [hregs, s.sreg_setSreg, if_neg fun h' => h ⟨h'.1, h'.2.1⟩]
  case rest => simpa [SameRest, SameHiLo, SameLink, SameSystem, SamePlatform, SameMemory] using hrest
  case seq => simpa [InSequence] using hseq
  case hz => simpa [SameHazards] using hhz

end Sys2Proof.Machine
end

section
/-! PROOFS. Values in memory, the segments, and the loads and stores (20_memory.md, 44_load_store.md). -/

namespace Sys2Proof.Machine

/-! ## Words and bytes -/

/-- Bit k of a value is bit k % 8 of its byte k / 8, the least significant byte first. -/
theorem bit_joinBytes (bs : List Byte) :
    ∀ {k : Nat}, k < 32 → bit (joinBytes bs) k = (bs.getD (k / 8) 0).getLsbD (k % 8) := by
  induction bs with
  | nil => intro k hk; simp [joinBytes, bit]
  | cons b bs ih =>
    intro k hk
    rw [joinBytes, bit_or, bit_shiftLeft _ _ hk, bit_setWidth _ hk]
    by_cases h8 : k < 8
    · rw [Nat.div_eq_of_lt h8, Nat.mod_eq_of_lt h8]
      simp [show ¬8 ≤ k by omega]
    · have hhigh : b.getLsbD k = false := BitVec.getLsbD_of_ge _ _ (by omega)
      rw [ih (by omega), hhigh, show k / 8 = (k - 8) / 8 + 1 by omega, show k % 8 = (k - 8) % 8 by omega]
      simp [show 8 ≤ k by omega]

/-- A byte put below a value. -/
theorem setWidth_append_byte {n : Nat} (x : BitVec n) (b : Byte) :
    (x ++ b).setWidth 32 = (x.setWidth 32 <<< 8) ||| b.setWidth 32 := by
  apply word_eq_of_bit_eq; intro k hk
  rw [bit_or, bit_shiftLeft _ _ hk, bit_setWidth _ hk, bit_setWidth _ hk, BitVec.getLsbD_append]
  by_cases h8 : k < 8
  · simp [h8, show ¬8 ≤ k by omega]
  · have hhigh : b.getLsbD k = false := BitVec.getLsbD_of_ge _ _ (by omega)
    rw [bit_setWidth _ (by omega), hhigh]
    simp [h8, show 8 ≤ k by omega]

theorem joinBytes_one (b : Byte) : joinBytes [b] = b.setWidth 32 := by simp [joinBytes]

theorem joinBytes_two (b0 b1 : Byte) : joinBytes [b0, b1] = (b1 ++ b0).setWidth 32 := by
  rw [joinBytes, joinBytes_one, setWidth_append_byte]

theorem joinBytes_four (b0 b1 b2 b3 : Byte) : joinBytes [b0, b1, b2, b3] = b3 ++ b2 ++ b1 ++ b0 := by
  rw [joinBytes, joinBytes, joinBytes_two, ← setWidth_append_byte, ← setWidth_append_byte, BitVec.setWidth_eq]

theorem field_joinBytes_two (b0 b1 : Byte) : field (joinBytes [b0, b1]) 0 16 = b1 ++ b0 := by
  rw [joinBytes_two, field_low _ (by omega), BitVec.setWidth_setWidth_of_le _ (by omega), BitVec.setWidth_eq]

theorem splitBytes_eq_map (v : Word) (n : Nat) :
    splitBytes v n = (List.range n).map fun i => v.extractLsb' (8 * i) 8 := by
  induction n generalizing v with
  | zero => rfl
  | succ n ih =>
    have hshift : ∀ i, (v >>> 8).extractLsb' (8 * i) 8 = v.extractLsb' (8 * (i + 1)) 8 := by
      intro i
      apply BitVec.eq_of_getLsbD_eq; intro k hk
      simp only [BitVec.getLsbD_extractLsb', BitVec.getLsbD_ushiftRight]
      rw [show 8 + (8 * i + k) = 8 * (i + 1) + k by omega]
    rw [splitBytes, ih, List.range_succ_eq_map, List.map_cons, List.map_map]
    refine congr (congrArg List.cons ?_) (List.map_congr_left fun i _ => hshift i)
    exact (field_low v (by omega)).symm

theorem getD_readBytes (m : Memory) (n : Nat) : ∀ (a i : Nat),
    (readBytes m a n).getD i 0 = if i < n then readByte m (a + i) else 0 := by
  induction n with
  | zero => intro a i; rfl
  | succ n ih =>
    intro a i
    cases i with
    | zero => rfl
    | succ i =>
      rw [readBytes, List.getD_cons_succ, ih]
      simp only [Nat.add_lt_add_iff_right]
      rw [show a + 1 + i = a + (i + 1) by omega]

/-- Where the byte of weight 256^i of n bytes stands. -/
def byteOffset (bigEndian : Bool) (n i : Nat) : Nat := if bigEndian then n - 1 - i else i

theorem getD_inByteOrder (bigEndian : Bool) (m : Memory) (a n : Nat) {i : Nat} :
    (inByteOrder bigEndian (readBytes m a n)).getD i 0 =
      if i < n then readByte m (a + byteOffset bigEndian n i) else 0 := by
  cases bigEndian with
  | false => exact getD_readBytes m n a i
  | true =>
    simp only [inByteOrder, byteOffset, if_true]
    by_cases h : i < n
    · have hlen := readBytes_length m n a
      have hrev : (readBytes m a n).reverse.getD i 0 = (readBytes m a n).getD (n - 1 - i) 0 := by
        rw [List.getD_eq_getElem?_getD, List.getD_eq_getElem?_getD, List.getElem?_reverse (by omega), hlen]
      rw [hrev, getD_readBytes, if_pos (by omega), if_pos h]
    · rw [if_neg h]
      exact List.getD_eq_default _ _ (by simp [readBytes_length]; omega)

section
variable (s : State) (pa : Nat)

/-- The bits of the value of n bytes. -/
theorem State.bit_loadBytes (n : Nat) {k : Nat} (hk : k < 32) :
    bit (s.loadBytes pa n) k =
      (decide (k < 8 * n) && (readByte s.mem (pa + byteOffset s.bigEndian n (k / 8))).getLsbD (k % 8)) := by
  rw [State.loadBytes, bit_joinBytes _ hk, getD_inByteOrder]
  by_cases h : k < 8 * n
  · rw [if_pos (by omega)]; simp [h]
  · rw [if_neg (by omega)]; simp [h]

theorem State.loadBytes_four : s.loadBytes pa 4 = s.wordAt pa := by
  simp only [State.loadBytes, State.wordAt, readBytes, inByteOrder]
  cases s.bigEndian
  · exact joinBytes_four ..
  · exact joinBytes_four ..

theorem State.field_loadBytes_two : field (s.loadBytes pa 2) 0 16 = s.halfAt pa := by
  simp only [State.loadBytes, State.halfAt, readBytes, inByteOrder]
  cases s.bigEndian
  · exact field_joinBytes_two ..
  · exact field_joinBytes_two ..

theorem State.field_loadBytes_one : field (s.loadBytes pa 1) 0 8 = readByte s.mem pa := by
  have hone : inByteOrder s.bigEndian (readBytes s.mem pa 1) = [readByte s.mem pa] := by cases s.bigEndian <;> rfl
  rw [State.loadBytes, hone, joinBytes_one, field_low _ (by omega), BitVec.setWidth_setWidth_of_le _ (by omega),
    BitVec.setWidth_eq]

theorem State.bit_wordAt {k : Nat} (hk : k < 32) :
    bit (s.wordAt pa) k = (readByte s.mem (pa + byteOffset s.bigEndian 4 (k / 8))).getLsbD (k % 8) := by
  rw [← s.loadBytes_four, s.bit_loadBytes pa 4 hk, decide_eq_true (by omega), Bool.true_and]

end

/-- A value put back together from its low bytes. -/
theorem joinBytes_splitBytes (v : Word) {n : Nat} (hn : n ≤ 4) :
    joinBytes (splitBytes v n) = v &&& lowOnes (8 * n) := by
  apply word_eq_of_bit_eq; intro k hk
  rw [bit_joinBytes _ hk, splitBytes_eq_map, bit_and, bit_lowOnes (by omega)]
  by_cases h : k / 8 < n
  · rw [List.getD_eq_getElem _ _ (by simpa using h), List.getElem_map, List.getElem_range,
      BitVec.getLsbD_extractLsb', Nat.div_add_mod]
    simp [show k < 8 * n by omega, show k % 8 < 8 by omega, bit]
  · rw [List.getD_eq_default _ _ (by simpa using h)]
    simp [show ¬k < 8 * n by omega]

/-! ## Places -/

theorem State.translate_settled {s : State} (h : s.settled) (kind : Access) (va : Word) :
    s.translate kind va = s.translateUnder va s.cp0.status := by
  rw [State.translate, State.viewedByFetch_settled h.2, State.viewed_settled h.1, State.cpReg_status, ite_self]

theorem State.toDseg_of_not_debug {s : State} (h : s.inDebug = false) (kind : Access) (va : Word) :
    s.toDseg kind va = false := by rw [State.toDseg, h]; rfl

/-- A permitted access to plain memory. -/
theorem State.place_of_memory {s : State} {kind : Access} {va : Word} {n : Nat} {tr : Translation}
    (hd : s.toDseg kind va = false) (ht : s.translate kind va = some tr)
    (hk : placeKind s.platform.memMap tr.pa.toNat n = some .memory) : s.place kind va n = .ok tr.pa.toNat := by
  simp [State.place, hd, ht, hk]

/-- An access that is not permitted. -/
theorem State.place_of_forbidden {s : State} {kind : Access} {va : Word} (hd : s.toDseg kind va = false)
    (ht : s.translate kind va = none) (n : Nat) : s.place kind va n = .error (.raise (addressError kind va)) := by
  simp [State.place, hd, ht]

theorem bit_top (va : Word) : bit va 31 = decide (0x80000000 ≤ va.toNat) := by
  rw [bit_sign, decide_eq_decide, BitVec.toInt_neg_iff]
  omega

theorem State.userUnder_eq {s : State} (h : s.inDebug = false) (st : Word) : s.userUnder st = !kernelMode st := by
  rw [State.userUnder, h]; rfl

/-- Settles O5. -/
theorem segmentMapping : Obligations.SegmentMapping := by
  intro s kind va n hset hd hmap hwidth st
  have hdseg := State.toDseg_of_not_debug hd kind va
  have htranslate := State.translate_settled hset kind va
  have huser := State.userUnder_eq hd st
  have hplace : (!kernelMode st && bit va 31) = false →
      s.place kind va n = .ok (fixedMapping (statusERL st) va).toNat := by
    intro hallowed
    refine State.place_of_memory (tr := ⟨fixedMapping (statusERL st) va, _⟩) hdseg
      (htranslate.trans (if_neg (by rw [huser, hallowed]; simp))) ?_
    have hmod := fixedMapping_mod (statusERL st) va
    have hfits : (fixedMapping (statusERL st) va).toNat + n ≤ 4294967296 := by omega
    simp [placeKind, hmap, hfits]
  have hmapping : (fixedMapping (statusERL st) va).toNat =
      if va.toNat < 0x80000000 then (if statusERL st then va.toNat else va.toNat + 0x40000000)
      else if va.toNat < 0xA0000000 then va.toNat - 0x80000000
      else if va.toNat < 0xC0000000 then va.toNat - 0xA0000000 else va.toNat := by
    simp only [fixedMapping, BitVec.lt_def]
    cases statusERL st <;> split_ifs <;> bv_omega
  have htop := bit_top va
  refine ⟨fun hlow herl => ?useg, fun hlow herl => ?mapped, fun hge hlt hk => ?kseg0, fun hge hlt hk => ?kseg1,
    fun hge hk => ?kseg2, fun hge hk => ?user⟩
  case useg =>
    rw [hplace (by rw [htop]; simp; omega), hmapping, if_pos hlow, if_pos herl]
  case mapped =>
    rw [hplace (by rw [htop]; simp; omega), hmapping, if_pos hlow, if_neg (by simp [herl])]
  case kseg0 =>
    rw [hplace (by rw [hk]; rfl), hmapping, if_neg (by omega), if_pos hlt]
  case kseg1 =>
    rw [hplace (by rw [hk]; rfl), hmapping, if_neg (by omega), if_neg (by omega), if_pos hlt]
  case kseg2 =>
    rw [hplace (by rw [hk]; rfl), hmapping, if_neg (by omega), if_neg (by omega), if_neg (by omega)]
  case user =>
    refine State.place_of_forbidden hdseg (htranslate.trans (if_pos ?_)) n
    rw [huser, hk, htop, decide_eq_true hge]; rfl

/-! ## Loads after stores -/

/-- Loads and stores have the same permission and the same translation. -/
theorem State.place_load_of_store {s : State} {va : Word} {n pa : Nat} (h : s.place .store va n = .ok pa) :
    s.place .load va n = .ok pa := by
  obtain ⟨tr, htr, rfl, hkind⟩ := State.place_ok h
  have hmem : placeKind s.platform.memMap tr.pa.toNat n = some .memory := hkind.resolve_right fun h' => h'.1 rfl
  have hd : s.toDseg .store va = false := by
    unfold State.place at h
    split at h
    · cases h
    · next hd => exact Bool.eq_false_iff.mpr hd
  exact State.place_of_memory (s := s) (kind := .load) hd htr hmem

/-- Settles O4. -/
theorem loadAfterStore : Obligations.LoadAfterStore := by
  intro s t va v n hn hwf h
  obtain ⟨ha, pa, hplace, rfl⟩ := State.memWrite_ok h
  have hbound : pa + n ≤ 4294967296 := State.place_bound hplace (aligned_in_word ha hn)
  have hload : (s.storeBytes pa (inByteOrder s.bigEndian (splitBytes v n))).place .load va n = .ok pa := by
    rw [← State.place_load_of_store hplace]
    exact State.place_congr rfl rfl rfl rfl rfl rfl rfl _ _ _
  have hlen := splitBytes_length v n
  have hvalue := State.loadBytes_storeBytes hwf (pa := pa) (splitBytes v n) (by rw [hlen]; exact hbound)
  rw [hlen, joinBytes_splitBytes v (by omega)] at hvalue
  rw [State.memRead_of_place ha hload, hvalue]

end Sys2Proof.Machine
end

section
/-! PROOFS. The loads and stores of a granted place (44_load_store.md sections 2 to 5). -/

namespace Sys2Proof.Machine

theorem aligned_iff (va : Word) (n : Nat) : aligned va n = true ↔ va.toNat % n = 0 := beq_iff_eq

theorem aligned_one (va : Word) : aligned va 1 = true := (aligned_iff va 1).mpr (Nat.mod_one _)

theorem State.placeUnaligned_of_place {s : State} {kind : Access} {start : Word} {n pa : Nat}
    (h : s.place kind start n = .ok pa) (ea : Word) : s.placeUnaligned kind ea start n = .ok pa := by
  simp [State.placeUnaligned, h]

/-! ## Loads -/

section
variable {s : State} {n pa : Nat}

theorem loadTo_of_place {ea : Word} (ha : aligned ea n = true) (hp : s.place .load ea n = .ok pa) (rt : Reg)
    (extend : Word → Word) : loadTo rt ea n extend s = writeReg rt (extend (s.loadBytes pa n)) s := by
  rw [loadTo, State.memRead_of_place ha hp]; rfl

/-- Settles O27. -/
theorem loadResults : Obligations.LoadResults := by
  intro s rt base offset pa ea
  refine ⟨fun hp => ⟨?lb, ?lbu⟩, fun ha hp => ⟨?lh, ?lhu⟩, fun ha hp => ?lw⟩
  case lb =>
    rw [show exec (.lb rt offset base) s = _ from loadTo_of_place (aligned_one ea) hp rt _, s.field_loadBytes_one]
    exact writeReg_writes ..
  case lbu =>
    rw [show exec (.lbu rt offset base) s = _ from loadTo_of_place (aligned_one ea) hp rt _, s.field_loadBytes_one,
      zext, ← BitVec.ofNat_toNat]
    exact writeReg_writes ..
  case lh =>
    rw [show exec (.lh rt offset base) s = _ from loadTo_of_place ((aligned_iff ea 2).mpr ha) hp rt _,
      s.field_loadBytes_two]
    exact writeReg_writes ..
  case lhu =>
    rw [show exec (.lhu rt offset base) s = _ from loadTo_of_place ((aligned_iff ea 2).mpr ha) hp rt _,
      s.field_loadBytes_two, zext, ← BitVec.ofNat_toNat]
    exact writeReg_writes ..
  case lw =>
    rw [show exec (.lw rt offset base) s = _ from loadTo_of_place ((aligned_iff ea 4).mpr ha) hp rt _, s.loadBytes_four]
    exact writeReg_writes ..

/-! ## Unaligned loads -/

theorem bit_mergeLeft (v old : Word) {i : Nat} (hi : i < 32) :
    bit (mergeLeft v old n) i = if 32 - 8 * n ≤ i then bit v (i - (32 - 8 * n)) else bit old i := by
  rw [mergeLeft, bit_or, bit_and, bit_shiftLeft _ _ hi, bit_lowOnes (by omega)]
  by_cases h : 32 - 8 * n ≤ i
  · simp [h, show ¬i < 32 - 8 * n by omega]
  · simp [h, show i < 32 - 8 * n by omega]

/-- The bits of `old` below the n bytes, of a value that has no others. -/
theorem bit_mergeRight {v : Word} (hn : n ≤ 4) (hv : ∀ i, 8 * n ≤ i → i < 32 → bit v i = false) (old : Word) {i : Nat}
    (hi : i < 32) : bit (mergeRight v old n) i = if i < 8 * n then bit v i else bit old i := by
  rw [mergeRight, bit_or, bit_and, bit_not _ hi, bit_lowOnes (by omega)]
  by_cases h : i < 8 * n
  · simp [h]
  · simp [h, hv i (by omega) hi]

theorem bit_loadBytes_above (s : State) (pa n i : Nat) (h : 8 * n ≤ i) (hi : i < 32) :
    bit (s.loadBytes pa n) i = false := by
  rw [s.bit_loadBytes pa n hi, decide_eq_false (by omega), Bool.false_and]

theorem execLwl_of_place {ea : Word} {base : Reg} {offset : Half} (hea : s.effectiveAddress base offset = ea)
    (hn : leftCount s.bigEndian ea = n) (h : s.place .load (leftStart s.bigEndian ea) n = .ok pa) (rt : Reg) :
    exec (.lwl rt offset base) s = writeReg rt (mergeLeft (s.loadBytes pa n) (s.reg rt) n) s := by
  subst hea hn
  show execLwl rt offset base s = _
  rw [execLwl, State.placeUnaligned_of_place h]; rfl

theorem execLwr_of_place {ea : Word} {base : Reg} {offset : Half} (hea : s.effectiveAddress base offset = ea)
    (hn : rightCount s.bigEndian ea = n) (h : s.place .load (rightStart s.bigEndian ea) n = .ok pa) (rt : Reg) :
    exec (.lwr rt offset base) s = writeReg rt (mergeRight (s.loadBytes pa n) (s.reg rt) n) s := by
  subst hea hn
  show execLwr rt offset base s = _
  rw [execLwr, State.placeUnaligned_of_place h]; rfl

end

/-- How many bytes the two parts of a word have, by the place of the address in it counted from the left. -/
theorem leftCount_eq (bigEndian : Bool) (ea : Word) :
    leftCount bigEndian ea = (if bigEndian then 3 - ea.toNat % 4 else ea.toNat % 4) + 1 := by
  rw [leftCount, toNat_field_two]
  split <;> omega

theorem rightCount_eq (bigEndian : Bool) (ea : Word) :
    rightCount bigEndian ea = 4 - (if bigEndian then 3 - ea.toNat % 4 else ea.toNat % 4) := by
  rw [rightCount, toNat_field_two]
  split <;> omega

/-- Settles O30. -/
theorem unalignedLoads : Obligations.UnalignedLoads := by
  intro s rt base offset wa ea b k w r
  have hb : b < 4 := Nat.mod_lt _ (by omega)
  have hk : k < 4 := by simp only [k]; split <;> omega
  have hleft : leftCount s.bigEndian ea = k + 1 := leftCount_eq _ _
  have hright : rightCount s.bigEndian ea = 4 - k := rightCount_eq _ _
  rw [hleft, hright]
  refine
    ⟨fun hp => ⟨mergeLeft (s.loadBytes (if s.bigEndian then wa + b else wa) (k + 1)) r (k + 1), fun i hi => ?left,
      ?lwl⟩,
    fun hp => ⟨mergeRight (s.loadBytes (if s.bigEndian then wa else wa + b) (4 - k)) r (4 - k), fun i hi => ?right,
      ?lwr⟩⟩
  case lwl =>
    rw [execLwl_of_place rfl hleft hp]
    exact writeReg_writes ..
  case lwr =>
    rw [execLwr_of_place rfl hright hp]
    exact writeReg_writes ..
  case left =>
    rw [bit_mergeLeft _ _ hi, show 32 - 8 * (k + 1) = 24 - 8 * k by omega]
    split
    next hin =>
      rw [s.bit_loadBytes _ _ (by omega), s.bit_wordAt _ (by omega), decide_eq_true (by omega), Bool.true_and]
      congr 2
      simp only [byteOffset, k]
      split <;> omega
    next => rfl
  case right =>
    rw [bit_mergeRight (by omega) (bit_loadBytes_above _ _ _) _ hi, show 8 * (4 - k) = 32 - 8 * k by omega]
    split
    next hin =>
      rw [s.bit_loadBytes _ _ hi, s.bit_wordAt _ (by omega), decide_eq_true (by omega), Bool.true_and,
        show (i + 8 * k) % 8 = i % 8 by omega]
      congr 2
      simp only [byteOffset, k]
      split <;> omega
    next => rfl

/-- Settles O32. -/
theorem unalignedLoadPair : Obligations.UnalignedLoadPair := by
  intro s rt base pa hbe hds hbase hrt a hright hleft
  have hleftCount := leftCount_eq false (a + 3)
  have hrightCount := rightCount_eq false a
  have hthree : (a + 3).toNat % 4 = (a.toNat + 3) % 4 := by
    rw [BitVec.toNat_add, show (3 : Word).toNat = 3 from rfl]; omega
  simp only [Bool.false_eq_true, if_false, hthree] at hleftCount hrightCount
  rw [hrightCount] at hright
  rw [hrightCount, hleftCount] at hleft
  have hlwl := execLwl_of_place (s := s) (offset := 3) (base := base) (n := (a.toNat + 3) % 4 + 1) rfl
    (by rw [hbe]; exact hleftCount)
    (by rw [hbe]; exact hleft) rt
  obtain ⟨t, htnext, htreg, htonly, ⟨-, htlink, ⟨htcp0, -, htplat⟩, htmem⟩, -, hthz⟩ :=
    (hlwl ▸ writeReg_writes .. : Writes (exec (.lwl rt 3 base) s) s rt _)
  have hthz : t.hz = s.hz := hthz.trans (if_neg (by rw [hds]; exact Bool.false_ne_true))
  have htcss : t.css = s.css := by rw [State.css, htcp0]; rfl
  have htbe : t.bigEndian = false := by rw [State.bigEndian, htcp0]; exact hbe
  have htbase : t.effectiveAddress base 0 = a := by
    rw [State.effectiveAddress, State.reg, htcss, htonly _ _ fun h => hbase h.2.symm]
    exact BitVec.add_zero _
  have htplace : t.place .load a (4 - a.toNat % 4) = .ok pa := by
    rw [← hright]
    exact State.place_congr htcp0 (by rw [hthz]) (by rw [hthz]) htplat.2.1 htplat.1 htplat.2.2.2.1 htlink.2 _ _ _
  have hlwr := execLwr_of_place (n := 4 - a.toNat % 4) htbase (by rw [htbe]; exact hrightCount)
    (by rw [htbe]; exact htplace) rt
  obtain ⟨u, hunext, hureg, huonly, ⟨-, -, -, humem⟩, -, -⟩ :=
    (hlwr ▸ writeReg_writes .. : Writes (exec (.lwr rt 0 base) t) t rt _)
  refine ⟨t, u, htnext, hunext, ?value, fun set r h => ?only, fun x => (humem x).trans (htmem x)⟩
  case only => rw [huonly set r (by rw [htcss]; exact h), htonly set r h]
  case value =>
    rw [hureg, if_neg hrt, htreg, if_neg hrt]
    apply word_eq_of_bit_eq; intro i hi
    rw [bit_mergeRight (by omega) (bit_loadBytes_above _ _ _) _ hi, bit_mergeLeft _ _ hi, s.bit_wordAt _ hi, hbe]
    split
    next hin =>
      rw [t.bit_loadBytes _ _ hi, htbe, htmem, decide_eq_true hin, Bool.true_and]; rfl
    next hin =>
      have hcount : (a.toNat + 3) % 4 + 1 = a.toNat % 4 := by omega
      rw [hcount, if_pos (by omega), if_neg (by omega), s.bit_loadBytes _ _ (by omega), hbe, decide_eq_true (by omega),
        Bool.true_and]
      simp only [byteOffset, Bool.false_eq_true, if_false]
      rw [show (i - (32 - 8 * (a.toNat % 4))) % 8 = i % 8 by omega,
        show pa + (4 - a.toNat % 4) + (i - (32 - 8 * (a.toNat % 4))) / 8 = pa + i / 8 by omega]

/-! ## Stores -/

/-- The bytes that a store writes, in the order of their addresses. -/
theorem inByteOrder_splitBytes (bigEndian : Bool) (v : Word) (n : Nat) :
    inByteOrder bigEndian (splitBytes v n) =
      (List.range n).map fun i => v.extractLsb' (8 * byteOffset bigEndian n i) 8 := by
  rw [splitBytes_eq_map]
  cases bigEndian with
  | false => rfl
  | true =>
    apply List.ext_getElem
    · simp [inByteOrder]
    · intro i h1 h2
      simp [inByteOrder, byteOffset]

section
variable {s : State} {pa : Nat} {bs : List Byte} (hwf : s.mem.wf = true) (hpa : pa + bs.length ≤ 4294967296)
include hwf hpa

theorem readBytes_storeBytes : readBytes (s.storeBytes pa bs).mem pa bs.length = bs :=
  readBytes_writeBytes bs pa hwf hpa

theorem storeBytes_outside : SameMemoryOutside s (s.storeBytes pa bs) pa bs.length := fun _ h =>
  readByte_writeBytes_outside hwf hpa h

theorem retire_storeBytes : Stores (retire (s.storeBytes pa bs)) s pa bs := by
  refine ⟨_, rfl, readBytes_storeBytes hwf hpa, storeBytes_outside hwf hpa, fun _ _ => rfl, ⟨rfl, rfl, rfl⟩, ⟨rfl, rfl⟩,
    ⟨rfl, rfl, rfl, rfl, rfl, rfl, rfl⟩, ⟨rfl, rfl, rfl, rfl, rfl⟩, ?_⟩
  split
  next h => exact if_pos h
  next h =>
    have hkept : (s.storeBytes pa bs).advance.hz = (s.storeBytes pa bs).hz := if_neg h
    rw [hkept]; rfl

end

/-- A store of n bytes to a granted, aligned place. -/
theorem storeFrom_stores {s : State} {ea : Word} {n pa : Nat} (hwf : s.mem.wf = true) (hn : n = 1 ∨ n = 2 ∨ n = 4)
    (ha : aligned ea n = true) (hp : s.place .store ea n = .ok pa) (rt : Reg) :
    Stores (storeFrom rt ea n s) s pa
      ((List.range n).map fun i => (s.reg rt).extractLsb' (8 * byteOffset s.bigEndian n i) 8) := by
  have hbound := State.place_bound hp (aligned_in_word ha hn)
  rw [storeFrom, State.memWrite_of_place ha hp, inByteOrder_splitBytes]
  exact retire_storeBytes hwf (by simpa using hbound)

/-- The four bytes of a word in the order of their addresses. -/
theorem map_byteOffset_four (bigEndian : Bool) (b : Nat → Byte) :
    ((List.range 4).map fun i => b (byteOffset bigEndian 4 i)) =
      if bigEndian then [b 3, b 2, b 1, b 0] else [b 0, b 1, b 2, b 3] := by cases bigEndian <;> rfl

/-- Settles O28. -/
theorem storeEffects : Obligations.StoreEffects := by
  intro s rt base offset pa hwf ea v b
  refine ⟨fun hp => ?sb, fun ha hp => ?sh, fun ha hp => ?sw⟩
  case sb =>
    have hbytes : ((List.range 1).map fun i => b (byteOffset s.bigEndian 1 i)) = [b 0] := by cases s.bigEndian <;> rfl
    exact hbytes ▸ storeFrom_stores hwf (by omega) (aligned_one ea) hp rt
  case sh =>
    have hbytes : ((List.range 2).map fun i => b (byteOffset s.bigEndian 2 i)) =
        if s.bigEndian then [b 1, b 0] else [b 0, b 1] := by cases s.bigEndian <;> rfl
    exact hbytes ▸ storeFrom_stores hwf (by omega) ((aligned_iff ea 2).mpr ha) hp rt
  case sw =>
    exact map_byteOffset_four s.bigEndian b ▸ storeFrom_stores hwf (by omega) ((aligned_iff ea 4).mpr ha) hp rt

theorem execSwl_of_place {s : State} {n pa : Nat} {ea : Word} {base : Reg} {offset : Half}
    (hea : s.effectiveAddress base offset = ea) (hn : leftCount s.bigEndian ea = n)
    (h : s.place .store (leftStart s.bigEndian ea) n = .ok pa) (rt : Reg) :
    exec (.swl rt offset base) s =
      retire (s.storeBytes pa (inByteOrder s.bigEndian (splitBytes (s.reg rt >>> (32 - 8 * n)) n))) := by
  subst hea hn
  show execSwl rt offset base s = _
  rw [execSwl, State.placeUnaligned_of_place h]; rfl

theorem execSwr_of_place {s : State} {n pa : Nat} {ea : Word} {base : Reg} {offset : Half}
    (hea : s.effectiveAddress base offset = ea) (hn : rightCount s.bigEndian ea = n)
    (h : s.place .store (rightStart s.bigEndian ea) n = .ok pa) (rt : Reg) :
    exec (.swr rt offset base) s =
      retire (s.storeBytes pa (inByteOrder s.bigEndian (splitBytes (s.reg rt) n))) := by
  subst hea hn
  show execSwr rt offset base s = _
  rw [execSwr, State.placeUnaligned_of_place h]; rfl

/-- Settles O31. -/
theorem unalignedStores : Obligations.UnalignedStores := by
  intro s rt base offset pa hwf ea b left right
  refine ⟨fun hp => ?swl, fun hp => ?swr⟩
  case swl =>
    have hbound := State.place_bound hp (leftStart_in_word _ _)
    have hleft : left ≤ 4 := by simp only [left, leftCount_eq]; split <;> omega
    have hbytes : inByteOrder s.bigEndian (splitBytes (s.reg rt >>> (32 - 8 * left)) left) =
        (List.range left).map fun i => if s.bigEndian then b (3 - i) else b (4 - left + i) := by
      rw [inByteOrder_splitBytes]
      refine List.map_congr_left fun i hi => ?_
      have hi' : i < left := List.mem_range.mp hi
      have hshift : ∀ o, (s.reg rt >>> (32 - 8 * left)).extractLsb' (8 * o) 8 = b (4 - left + o) := by
        intro o
        apply BitVec.eq_of_getLsbD_eq; intro j hj
        simp only [b, BitVec.getLsbD_extractLsb', BitVec.getLsbD_ushiftRight]
        rw [show 32 - 8 * left + (8 * o + j) = 8 * (4 - left + o) + j by omega]
      rw [hshift, byteOffset]
      split
      next => rw [show 4 - left + (left - 1 - i) = 3 - i by omega]
      next => rfl
    rw [execSwl_of_place (ea := ea) (n := left) rfl rfl hp, hbytes]
    exact retire_storeBytes hwf (by simpa using hbound)
  case swr =>
    have hbound := State.place_bound hp (rightStart_in_word _ _)
    have hbytes : inByteOrder s.bigEndian (splitBytes (s.reg rt) right) =
        (List.range right).map fun i => if s.bigEndian then b (right - 1 - i) else b i := by
      rw [inByteOrder_splitBytes]
      refine List.map_congr_left fun i _ => ?_
      rw [byteOffset]
      split <;> rfl
    rw [execSwr_of_place (ea := ea) (n := right) rfl rfl hp, hbytes]
    exact retire_storeBytes hwf (by simpa using hbound)

/-! ## Load-linked and store-conditional -/

/-- SC to an address that may be stored to. -/
theorem execSc_permitted {s : State} {ea : Word} (ha : aligned ea 4 = true) (ht : (s.translate .store ea).isSome = true)
    {rt base : Reg} {offset : Half} (hea : s.effectiveAddress base offset = ea) :
    exec (.sc rt offset base) s =
      if !s.llBit then writeReg rt 0 s
      else if ea ≠ s.llAddr then .fault .scAddressMismatch
      else attempt (s.memWrite ea 4 (s.reg rt)) s fun s => writeReg rt 1 s := by
  show execSc rt offset base s = _
  have hnone : (s.translate .store ea).isNone = false := by rw [← Option.not_isSome, ht]; rfl
  simp only [execSc, hea, ha, hnone, Bool.not_true, Bool.or_self, Bool.false_eq_true, if_false]

/-- Settles O33. -/
theorem linkedAccess : Obligations.LinkedAccess := by
  intro s rt base offset pa ea v b ha
  have haligned : aligned ea 4 = true := (aligned_iff ea 4).mpr ha
  refine ⟨fun hp => ?ll, fun ht => ?sc⟩
  case ll =>
    have hexec : exec (.ll rt offset base) s = writeReg rt (s.wordAt pa) (s.setLink true ea) := by
      show execLl rt offset base s = _
      have hread : s.memRead (s.effectiveAddress base offset) 4 = .ok (s.wordAt pa) := by
        rw [← s.loadBytes_four]; exact State.memRead_of_place haligned hp
      rw [execLl, hread]; rfl
    rw [hexec]
    exact writeReg_writes ..
  case sc =>
    rw [execSc_permitted haligned ht rfl]
    refine ⟨fun hll => ?free, fun hll hne => ?other, fun hll heq hp hwf => ?held⟩
    case free =>
      rw [if_pos (by rw [hll]; rfl)]
      exact writeReg_writes ..
    case other => rw [if_neg (by rw [hll]; decide), if_pos hne]
    case held =>
      have hbound := State.place_bound hp (aligned_in_word haligned (by omega))
      have hbytes := (inByteOrder_splitBytes s.bigEndian v 4).trans (map_byteOffset_four s.bigEndian b)
      have hlen : (if s.bigEndian then [b 3, b 2, b 1, b 0] else [b 0, b 1, b 2, b 3]).length = 4 := by split <;> rfl
      rw [if_neg (by rw [hll]; decide), if_neg (Classical.not_not.mpr heq), State.memWrite_of_place haligned hp, hbytes,
        attempt]
      generalize (if s.bigEndian then [b 3, b 2, b 1, b 0] else [b 0, b 1, b 2, b 3]) = bs at hlen ⊢
      rw [← hlen] at hbound
      obtain ⟨t, hnext, hreg, honly, ⟨hhilo, hlink, hsys, hmem⟩, hseq, -⟩ := writeReg_writes rt 1 (s.storeBytes pa bs)
      refine ⟨t, hnext, hreg, honly, ?bytes, fun a h => ?outside, hhilo, hlink, hsys, hseq⟩
      case bytes =>
        rw [← hlen, readBytes_congr (m := (s.storeBytes pa bs).mem) _ fun a _ _ => hmem a]
        exact readBytes_storeBytes hwf hbound
      case outside => exact (hmem a).trans (storeBytes_outside hwf hbound a (hlen ▸ h))

end Sys2Proof.Machine
end

section
/-! PROOFS. The step: the fetch, WAIT, and the events taken between instructions (10_state.md R26; 20_memory.md R66;
45_trap_system.md R285; 60_exceptions.md sections 3, 4 and 8; 70_reset_and_hazards.md R400). -/

namespace Sys2Proof.Machine

/-! ## What a step does -/

/-- The step of a machine that does not stay in a wait. -/
theorem step_of_awake {s : State} (h : s.observe.waiting = false ∨ s.observe.wakes s.nextInput = true) :
    step s = (s.observe.eventTaken s.nextInput).getD (runInstruction s.observe.begin) := by
  rw [step, stepOn, if_neg]
  rcases h with h | h <;> simp [h]

theorem step_of_event {s : State} {o : Out} (h : s.observe.waiting = false ∨ s.observe.wakes s.nextInput = true)
    (he : s.observe.eventTaken s.nextInput = some o) : step s = o := by
  rw [step_of_awake h, he]; rfl

theorem step_of_no_event {s : State} (h : s.observe.waiting = false ∨ s.observe.wakes s.nextInput = true)
    (he : s.observe.eventTaken s.nextInput = none) : step s = runInstruction s.observe.begin := by
  rw [step_of_awake h, he]; rfl

theorem State.wakes_of_event {s : State} {i : StepInput} {e : ExternalEvent} (h : i.event = some e) :
    s.wakes i = true := by simp [State.wakes, h]

/-! ## Fetch -/

theorem State.fetchBytes_of_staleText {s : State} (h : s.hz.staleText = []) (pa n : Nat) :
    s.fetchBytes pa n = readBytes s.mem pa n := by
  have hbyte : ∀ a, s.fetchByte a = readByte s.mem a := fun a => by simp [State.fetchByte, h]
  induction n generalizing pa with
  | zero => rfl
  | succ n ih => rw [State.fetchBytes, readBytes, hbyte, ih]

theorem State.fetch_of_place {s : State} (h : s.hz.staleText = []) {va : Word} {n pa : Nat}
    (ha : aligned va n = true) (hp : s.place .fetch va n = .ok pa) : s.fetch va n = .ok (s.loadBytes pa n) := by
  rw [State.fetch, if_pos ha, hp]
  simp only [Except.map, State.fetchBytes_of_staleText h]
  rfl

theorem State.setWidth_loadBytes_two (s : State) (pa : Nat) : (s.loadBytes pa 2).setWidth 16 = s.halfAt pa :=
  (field_low _ (by omega)).symm.trans (s.field_loadBytes_two pa)

theorem runInstruction_of_fetchDecode {s : State} {i : Instr} (h : s.fetchDecode = .ok i) :
    runInstruction s = exec i s := by
  rw [runInstruction, h]; rfl

theorem State.fetchDecode_word {s : State} {w : Word} {i : Instr} (hisa : s.flow.isaMode = false)
    (hf : s.fetch s.flow.pc 4 = .ok w) (hd : decode32 w = .ok i) : s.fetchDecode = .ok i := by
  rw [State.fetchDecode, if_neg (by simp [hisa]), State.fetch32, hf]
  simp only [hd]

theorem State.fetchDecode_half {s : State} {w : Word} {second : Half} {i : Instr} (hisa : s.flow.isaMode = true)
    (hf : s.fetch s.flow.pc 2 = .ok w) (hs : s.secondHalf (w.setWidth 16) = .ok second)
    (hd : decode16 (w.setWidth 16) second = .ok i) : s.fetchDecode = .ok i := by
  rw [State.fetchDecode, if_pos hisa, State.fetch16, hf]
  simp only [hs, hd]

/-- Settles O6. -/
theorem stepRunsInstruction : Obligations.StepRunsInstruction := by
  intro s pa i u hw he hstale
  have hstep : u.begin.fetchDecode = .ok i → step s = exec i u.begin := fun h =>
    (step_of_no_event hw he).trans (runInstruction_of_fetchDecode h)
  have hhalf : ∀ va p, va.toNat % 2 = 0 → u.begin.place .fetch va 2 = .ok p →
      u.begin.fetch va 2 = .ok (u.loadBytes p 2) := fun va p ha hp =>
    State.fetch_of_place hstale ((aligned_iff va 2).mpr ha) hp
  refine ⟨fun hisa ha hp hd => hstep ?word, fun hisa ha hp hshort hd => hstep ?short,
    fun hisa ha hp hlong pb hpb hd => hstep ?pair⟩
  case word =>
    have hfetch := State.fetch_of_place (s := u.begin) hstale ((aligned_iff u.flow.pc 4).mpr ha) hp
    rw [State.loadBytes_four] at hfetch
    exact State.fetchDecode_word hisa hfetch hd
  case short =>
    refine State.fetchDecode_half (second := 0) hisa (hhalf _ _ ha hp) ?_ ?_
    · rw [u.setWidth_loadBytes_two, State.secondHalf, if_neg (by simp [hshort])]
    · rw [u.setWidth_loadBytes_two]; exact hd
  case pair =>
    have ha' : (u.flow.pc + 2).toNat % 2 = 0 := by
      rw [BitVec.toNat_add, show (2 : Word).toNat = 2 from rfl]; omega
    refine State.fetchDecode_half (second := u.halfAt pb) hisa (hhalf _ _ ha hp) ?_ ?_
    · rw [u.setWidth_loadBytes_two, State.secondHalf, if_pos hlong, show u.begin.flow = u.flow from rfl,
      hhalf _ _ ha' hpb]
      exact congrArg Except.ok (u.setWidth_loadBytes_two pb)
    · rw [u.setWidth_loadBytes_two]; exact hd

/-- A fetch or a decoding that raises an exception. -/
theorem runInstruction_of_raise {s : State} {e : Exc} (h : s.fetchDecode = .error (.raise e)) :
    runInstruction s = takeException e s := by
  rw [runInstruction, h]; rfl

/-- Settles O8. -/
theorem fetchExceptions : Obligations.FetchExceptions := by
  intro s w u hw he hisa hready
  have hbegin : u.begin.ready := hready
  have hstep : ∀ e, u.begin.fetchDecode = .error (.raise e) → step s = takeException e u.begin := fun e h =>
    (step_of_no_event hw he).trans (runInstruction_of_raise h)
  have hmips32 : u.begin.fetchDecode = u.begin.fetch32 := if_neg (by simp [State.begin, hisa])
  refine ⟨fun hf hd haccess => ?reserved, fun ha => ?misaligned⟩
  case reserved =>
    have hreject : u.begin.rejectedWord w .reserved = .raise .reservedInstruction := by
      refine if_neg ?_
      rcases haccess with h | h
      · simpa using fun hop => absurd hop h
      · simp [show u.begin.cop0Usable = true from h]
    have hfetch : u.begin.fetch32 = .error (.raise .reservedInstruction) := by
      rw [State.fetch32, show u.begin.fetch u.begin.flow.pc 4 = .ok w from hf]
      simp only [hd, hreject]
    rw [hstep _ (hmips32.trans hfetch)]
    exact takeException_enters hbegin (by decide) (by decide)
  case misaligned =>
    have hfetch : u.begin.fetch32 = .error (.raise (.addressErrorLoad u.flow.pc)) := by
      have hnot : u.begin.fetch u.begin.flow.pc 4 = .error (.raise (.addressErrorLoad u.flow.pc)) :=
        if_neg (mt (aligned_iff _ 4).mp ha)
      rw [State.fetch32, hnot]
    rw [hstep _ (hmips32.trans hfetch)]
    exact takeException_enters (e := .addressErrorLoad u.flow.pc) hbegin (by simp) (by simp)

/-! ## WAIT -/

theorem waitOperation_passes {s : State} (hu : s.cop0Usable = true) (hds : s.flow.inDs = false) :
    Passes (waitOperation s) { s with waiting := true } := by
  rw [waitOperation, outsideSlot_of_not hds, withCop0_usable hu]
  exact retire_passes { s with waiting := true }

/-- Settles O7. -/
theorem waitForInterrupt : Obligations.WaitForInterrupt := by
  refine ⟨fun s code hu hds => ⟨waitOperation_passes hu hds, ?classRow⟩, fun s hw hwakes => ?hold⟩
  case classRow =>
    have hfun : (code ++ 0x20#6).extractLsb' 0 6 = 0x20#6 := by
      apply BitVec.eq_of_getLsbD_eq; intro k hk
      rw [BitVec.getLsbD_extractLsb', Nat.zero_add, BitVec.getLsbD_append]
      simp [hk]
    have hexec : exec (.cop0 (code ++ 0x20#6)) s = waitOperation s := if_pos hfun
    rw [hexec]
    exact waitOperation_passes hu hds
  case hold =>
    have hstay : step s = .next s.observe := if_pos (by rw [hwakes, show s.observe.waiting = true from hw]; rfl)
    refine ⟨hstay, hw, fun _ _ => rfl, ⟨rfl, rfl, rfl⟩, rfl, fun _ => rfl, rfl, ?css, fun k hk => ?cause⟩
    case css => exact field_setField_apart _ _ _ _ _ (by omega) (by omega)
    case cause =>
      simp only [State.observe]
      split
      · by_cases h32 : k < 32
        · exact (bit_setBit _ _ _ _ h32).trans (if_neg hk)
        · rw [bit_above _ _ (by omega), bit_above _ _ (by omega)]
      · rfl

/-! ## Interrupts between instructions -/

/-- With no external event and no single step due, an accepted interrupt that is due. -/
theorem State.eventTaken_quiet {u : State} {i : StepInput} (he : i.event = none) (hs : u.singleStepDue = false) :
    u.eventTaken i = if i.accept && u.interruptDue then some (takeException .interrupt u) else none := by
  simp [State.eventTaken, he, hs]

theorem State.interruptDue_settled {u : State} (h : u.hz.hazard = []) :
    u.interruptDue =
      (u.enabledUnder u.cp0.status && u.pendingUnder u.cp0.status (u.causeWord u.cp0.cause)) := by
  simp only [State.interruptDue, State.viewed_settled h, State.cpReg_status, State.cpReg_cause]

theorem State.enabledUnder_iff (u : State) (st : Word) :
    u.enabledUnder st = true ↔
      statusIE st = true ∧ statusEXL st = false ∧ statusERL st = false ∧ u.inDebug = false := by
  simp [State.enabledUnder, and_assoc]

theorem State.eicModeUnder_iff {u : State} (h : u.hz.hazard = []) (st ca : Word) :
    u.eicModeUnder st ca = true ↔
      bit u.cp0.config3 6 = true ∧ bit ca 23 = true ∧ statusBEV st = false ∧ field u.cp0.intCtl 5 5 ≠ 0 := by
  simp only [State.eicModeUnder, State.viewedStored_settled h, State.stored, Bool.and_eq_true, Bool.not_eq_true',
    bne_iff_ne, and_assoc]

/-- A request, in external-controller mode or by a mask bit. -/
theorem State.pendingUnder_iff (u : State) (st ca : Word) :
    u.pendingUnder st ca = true ↔
      (u.eicModeUnder st ca = true → field st 10 6 < field ca 10 6) ∧
        (¬u.eicModeUnder st ca = true → field ca 8 8 &&& field st 8 8 ≠ 0) := by
  rw [State.pendingUnder]
  split
  next h => simp [h]
  next h => simp [h]

/-- Settles O36. -/
theorem interruptTaken : Obligations.InterruptTaken := by
  intro s u i st ca controller pending hset hevent hss hw
  have hevents := State.eventTaken_quiet hevent hss
  have hpending : u.pendingUnder st ca = true ↔ pending := by
    rw [u.pendingUnder_iff, State.eicModeUnder_iff hset.1]
  have hdue := State.interruptDue_settled hset.1
  refine ⟨fun hie hexl herl hd hacc hpend => ?taken, fun hnot => ?runs⟩
  case taken =>
    refine step_of_event hw (hevents.trans (if_pos ?_))
    rw [hdue, hacc, (u.enabledUnder_iff st).mpr ⟨hie, hexl, herl, hd⟩, hpending.mpr hpend]; rfl
  case runs =>
    refine step_of_no_event hw (hevents.trans (if_neg ?_))
    rw [hdue, Bool.and_eq_true, Bool.and_eq_true, u.enabledUnder_iff, hpending]
    rintro ⟨hacc, ⟨hie, hexl, herl, hd⟩, hpend⟩
    change i.accept = true at hacc
    simp [st, hie, hexl, herl, hd, hacc, hpend] at hnot

/-! ## Resets and non-maskable interrupts -/

theorem bit_enterResetClass (soft : Bool) (u : State) {k : Nat} (hk : k < 32) :
    bit (enterResetClass soft u).cp0.status k =
      if k = 22 ∨ k = 2 then true else if k = 21 then false else if k = 20 then soft
      else if k = 19 then !soft else bit u.cp0.status k := by
  simp only [enterResetClass, bit_setBit _ _ _ _ hk]
  grind

theorem State.singleStepDue_in_debug {u : State} (h : u.inDebug = true) : u.singleStepDue = false := by
  simp [State.singleStepDue, h]

/-- Settles O37. -/
theorem resetClassEntry : Obligations.ResetClassEntry := by
  intro s u i entered
  have hentered : ∀ soft, entered soft (enterResetClass soft u) := fun soft =>
    ⟨fun k hk => bit_enterResetClass soft u hk, rfl, rfl, rfl, rfl, fun _ _ => rfl, ⟨rfl, rfl, rfl⟩, ⟨rfl, rfl⟩,
      ⟨rfl, rfl, rfl, rfl, rfl⟩, fun _ => rfl⟩
  refine ⟨fun he => ⟨_, ?softReset, hentered true⟩, fun he hss hd => ⟨_, ?nmi, hentered false⟩,
    fun he hd hset => ?inDebug⟩
  case softReset =>
    exact step_of_event (.inr (State.wakes_of_event he))
      (by simp [State.eventTaken, show s.nextInput.event = _ from he, u])
  case nmi =>
    refine step_of_event (.inr (State.wakes_of_event he)) ?_
    simp [State.eventTaken, show s.nextInput.event = _ from he, show s.observe.singleStepDue = _ from hss,
      show s.observe.inDebug = _ from hd, u]
  case inDebug =>
    refine step_of_no_event (.inr (State.wakes_of_event he)) ?_
    have hdue : u.interruptDue = false := by
      rw [State.interruptDue_settled hset.1, State.enabledUnder, hd]; simp
    have hss : s.observe.singleStepDue = false := State.singleStepDue_in_debug hd
    simp [State.eventTaken, show s.nextInput.event = _ from he, hss,
      show s.observe.inDebug = _ from hd, show s.observe.interruptDue = _ from hdue]

/-- Settles O38. -/
theorem coldReset_spec : Obligations.ColdReset := by
  intro s he u
  have hstep : step s = .next (coldReset u) :=
    step_of_event (.inr (State.wakes_of_event he)) (by simp [State.eventTaken, he, u])
  have hsrs : ∀ lo, field (coldReset u).cp0.srsCtl lo 4 = field u.cp0.srsCtl lo 4 &&& field 0x3C000000 lo 4 :=
    fun lo => field_and _ _ lo 4
  have hebase : (coldReset u).cp0.ebase = 0x80000000 ||| (u.cp0.ebase &&& 0x3FF) := rfl
  refine ⟨_, hstep, rfl, (by decide : (0x00400004 : Word) &&& 0x08780004 = 0x00400004), (by decide : bit 0 27 = false),
    (by decide : bit 0 22 = false), ?vs, ?css, ?pss, ?ess, rfl, ?page, rfl,
    (by decide : (0x02000000 : Word) &&& 0x50100100 = 0), (by decide : bit 0x02000000 25 = true), ?hss, rfl, rfl, rfl,
    rfl, ?config, ?ipti, ?ippci, ?cpuNum, rfl, rfl, rfl, fun _ => rfl⟩
  case vs => exact field_setField_self _ _ _ (by omega)
  case css => exact (hsrs 0).trans BitVec.and_zero
  case pss => exact (hsrs 6).trans BitVec.and_zero
  case ess => exact (hsrs 12).trans BitVec.and_zero
  case hss => exact (hsrs 26).trans BitVec.and_allOnes
  case ipti => exact field_setField_apart _ _ _ _ _ (by omega) (by omega)
  case ippci => exact field_setField_apart _ _ _ _ _ (by omega) (by omega)
  case config =>
    intro k hk
    by_cases h32 : k < 32
    · exact (bit_setField _ _ _ h32).trans (if_neg (by omega))
    · rw [bit_above _ _ (by omega), bit_above _ _ (by omega)]
  case page =>
    have hbits : ∀ k, k < 32 → bit 0x3FF k = true → bit 0xFFFFF000 k = false := by decide
    have hbase : ∀ k, k < 32 → (bit 0x80000000 k && bit 0xFFFFF000 k) = bit 0x80000000 k := by decide
    apply word_eq_of_bit_eq; intro k hk
    rw [hebase, bit_and, bit_or, bit_and, Bool.and_or_distrib_right, hbase k hk]
    cases h : bit 0x3FF k with
    | false => rw [Bool.and_false, Bool.false_and, Bool.or_false]
    | true => rw [hbits k hk h, Bool.and_false, Bool.or_false]
  case cpuNum =>
    have hbits : ∀ k, k < 10 → bit 0x80000000 k = false ∧ bit 0x3FF k = true := by decide
    apply BitVec.eq_of_getLsbD_eq; intro k hk
    rw [getLsbD_field _ _ _ hk, getLsbD_field _ _ _ hk, Nat.zero_add, hebase, bit_or, bit_and, (hbits k hk).1,
      (hbits k hk).2, Bool.false_or, Bool.and_true]

/-! ## Debug Mode -/

theorem State.bit_entryDebug (s : State) (c : DebugCause) {k : Nat} (hk : k < 32) :
    bit (s.entryDebug c) k =
      if k = 26 then false else if k = 27 then s.waiting else if k = 20 then true else if k = 30 then true
      else if k = 31 then s.flow.inDs else if k = debugCauseBit c then true
      else if k < 6 then false else bit s.cp0.debug k := by
  simp only [State.entryDebug, bit_setBit _ _ _ _ hk, bit_setField _ _ _ hk]
  simp

/-- The six bits that tell what brought the machine into Debug Mode. -/
theorem State.entryDebug_cause (s : State) (c : DebugCause) :
    field (s.entryDebug c) 0 6 = 1#6 <<< debugCauseBit c := by
  apply BitVec.eq_of_getLsbD_eq; intro k hk
  rw [getLsbD_field _ _ _ hk, Nat.zero_add, s.bit_entryDebug c (by omega), if_neg (by omega), if_neg (by omega),
    if_neg (by omega), if_neg (by omega), if_neg (by omega), if_pos hk]
  cases c <;> interval_cases k <;> rfl

/-- A single step is due, as nothing awaits a barrier. -/
theorem State.singleStepDue_iff {u : State} (h : u.hz.hazard = []) (hd : u.inDebug = false) :
    u.singleStepDue = true ↔ bit u.cp0.debug 8 = true ∧ u.stepped = true ∧ u.flow.inDs = false := by
  have hdebug : u.cpReg .debug = u.cp0.debug := u.cpReg_of_ne_cause (by decide)
  simp [State.singleStepDue, State.viewed_settled h, hdebug, hd, and_assoc]

/-- Settles O41. -/
theorem debugEntry : Obligations.DebugEntry := by
  unfold Obligations.DebugEntry
  intro entered enters reenters
  have henters : ∀ (s : State) (c : DebugCause), enters (.next (enterDebug c s)) s (1#6 <<< debugCauseBit c) := by
    intro s c
    have hbit : ∀ k, k < 32 → bit (enterDebug c s).cp0.debug k = _ := fun k hk => s.bit_entryDebug c hk
    exact ⟨_, rfl, ⟨rfl, hbit 30 (by omega), rfl, fun _ _ => rfl, ⟨rfl, rfl, rfl⟩, ⟨rfl, rfl⟩,
      ⟨rfl, rfl, rfl, rfl, rfl⟩, fun _ => rfl, rfl⟩, rfl, s.entryDebug_cause c, hbit 31 (by omega), hbit 20 (by omega)⟩
  refine ⟨fun s code hd => ?sdbbp, ?events, fun s code a n hd => ?inside⟩
  case sdbbp =>
    have hexec : exec (.sdbbp code) s = .next (enterDebug .softwareBreakpoint s) := by
      show takeException .debugBreakpoint s = _
      rw [takeException, if_neg (by simp [hd]), if_pos rfl]
    exact hexec ▸ henters s .softwareBreakpoint
  case events =>
    intro s u i due hhaz hd hreset hsoft
    have hdue_iff : s.observe.singleStepDue = true ↔ due := State.singleStepDue_iff hhaz hd
    refine ⟨fun hdue hw => ?singleStep, fun he hnot => ?interrupt⟩
    case singleStep =>
      have hstep : step s = .next (enterDebug .singleStep u) := by
        refine step_of_event hw ?_
        rw [State.eventTaken, if_neg hreset, if_neg hsoft, if_pos (hdue_iff.mpr hdue)]
      exact hstep ▸ henters u .singleStep
    case interrupt =>
      have hstep : step s = .next (enterDebug .debugInterrupt u) := by
        refine step_of_event (.inr (State.wakes_of_event he)) ?_
        rw [State.eventTaken, if_neg hreset, if_neg hsoft, if_neg (mt hdue_iff.mp hnot), if_pos]
        rw [show s.nextInput.event = _ from he, show s.observe.inDebug = _ from hd]; rfl
      exact hstep ▸ henters u .debugInterrupt
  case inside =>
    have hre : ∀ e, reenters (takeException e s) s (excCode e) := by
      intro e
      have hbit : ∀ k, k < 10 ∨ 15 ≤ k → bit (reenterDebug e s).cp0.debug k = bit s.cp0.debug k := by
        intro k hk
        by_cases h32 : k < 32
        · exact (bit_setField _ _ _ h32).trans (if_neg (by omega))
        · rw [bit_above _ _ (by omega), bit_above _ _ (by omega)]
      exact ⟨_, if_pos hd, ⟨rfl, (hbit 30 (by omega)).trans hd, rfl, fun _ _ => rfl, ⟨rfl, rfl, rfl⟩, ⟨rfl, rfl⟩,
        ⟨rfl, rfl, rfl, rfl, rfl⟩, fun _ => rfl, rfl⟩, rfl, field_setField_self _ _ _ (by omega), hbit⟩
    refine ⟨hre .debugBreakpoint, ?_⟩
    simp only [List.forall_mem_cons, List.not_mem_nil, false_imp_iff, implies_true, and_true]
    exact ⟨hre _, hre _, hre _, hre _, hre _, hre _, hre _, hre _, hre _⟩

end Sys2Proof.Machine
end

section
/-! PROOFS. The MIPS16e instructions (47_mips16e_only.md), with the frames of SAVE and RESTORE as lists of registers,
and the address errors of every load and store (20_memory.md R62, R65). -/

namespace Sys2Proof.Machine

/-! ## Operands -/

theorem xlat_eq (rx : Reg3) : xlat rx = BitVec.ofNat 5 (if rx.toNat < 2 then rx.toNat + 16 else rx.toNat) := by
  revert rx; decide

theorem xlat_ne_zero (rx : Reg3) : xlat rx ≠ 0 := by revert rx; decide

theorem zext_shiftLeft_eq {n : Nat} (v : BitVec n) (k : Nat) (hv : v.toNat * 2 ^ k < 4294967296) :
    zext v <<< k = BitVec.ofNat 32 (v.toNat * 2 ^ k) := by
  have hlt : v.toNat < 4294967296 := Nat.lt_of_le_of_lt (Nat.le_mul_of_pos_right _ (Nat.two_pow_pos k)) hv
  rw [shiftLeft_eq_ofNat, zext, BitVec.toNat_setWidth, Nat.mod_eq_of_lt hlt]

theorem pcDisplacement_eq (imm : PcImm) :
    pcDisplacement imm = match imm with
      | .short i => BitVec.ofNat 32 (4 * i.toNat)
      | .extended i => BitVec.ofInt 32 i.toInt := by
  cases imm with
  | short i =>
    have hi := i.isLt
    exact (zext_shiftLeft_eq i 2 (by omega)).trans (congrArg (BitVec.ofNat 32) (Nat.mul_comm ..))
  | extended i => rfl

theorem frameBytes_eq (n : BitVec 4) : frameBytes n = BitVec.ofNat 32 (if n = 0 then 128 else 8 * n.toNat) := by
  revert n; decide

/-! ## ADDIUPC, LWPC, ZEB, ZEH and the compact jumps -/

/-- A register result of a MIPS16e instruction. -/
theorem retire16_setReg (s : State) (r : Reg) (v len : Word) :
    Links (retire16 len (s.setReg r v)) s r v
      ⟨s.flow.pc + len, s.flow.pc + len + 2, s.flow.isaMode, false, s.flow.isaMode⟩ := by
  rw [retire16, State.advance16, State.setReg_flow]
  exact links_setReg_setFlow s r v _

theorem execLwpc_of_place {s : State} {imm : PcImm} {a : Word} {pa : Nat} (ha : s.basePc + pcDisplacement imm = a)
    (hal : a.toNat % 4 = 0) (hp : s.place .load a 4 = .ok pa) (rx : Reg3) :
    exec (.lwpc rx imm) s = retire16 (pcLength imm) (s.setReg (xlat rx) (s.wordAt pa)) := by
  subst ha
  show execLwpc rx imm s = _
  rw [execLwpc, State.memRead_of_place ((aligned_iff _ 4).mpr hal) hp, s.loadBytes_four]; rfl

/-- Settles O51. -/
theorem compactResults : Obligations.CompactResults := by
  intro s rx imm pa r a len writes there
  have hr : xlat rx = r := xlat_eq rx
  have ha : s.basePc + pcDisplacement imm = a := congrArg (s.basePc + ·) (pcDisplacement_eq imm)
  have hlen : pcLength imm = len := by cases imm <;> rfl
  have hwrites : ∀ v n, writes (retire16 n (s.setReg r v)) v n := by
    intro v n
    obtain ⟨t, hnext, hflow, hreg, honly, hrest, hhz⟩ := retire16_setReg s r v n
    exact ⟨t, hnext, hreg.trans (if_neg (hr ▸ xlat_ne_zero rx)), honly, hrest, hhz, hflow⟩
  refine ⟨?addiupc, ?zeb, ?zeh, fun hal hp => ?lwpc, fun hds => ⟨?jalrc, ?jrc, ?jrcRa⟩⟩
  case addiupc =>
    have hexec : exec (.addiupc rx imm) s = retire16 len (s.setReg r a) := by
      show execAddiupc rx imm s = _
      rw [execAddiupc, hlen, hr, ha]
    exact hexec ▸ hwrites a len
  case zeb =>
    have hexec : exec (.zeb rx) s = retire16 2 (s.setReg r (s.reg r &&& 0xFF)) := by
      show execZeb rx s = _
      rw [execZeb, hr, zext_field_low _ (by omega)]; rfl
    exact hexec ▸ hwrites _ 2
  case zeh =>
    have hexec : exec (.zeh rx) s = retire16 2 (s.setReg r (s.reg r &&& 0xFFFF)) := by
      show execZeh rx s = _
      rw [execZeh, hr, zext_field_low _ (by omega)]; rfl
    exact hexec ▸ hwrites _ 2
  case lwpc =>
    rw [execLwpc_of_place ha hal hp, hlen, hr]
    exact hwrites _ len
  case jalrc =>
    rw [show exec (.jalrc rx) s = _ from outsideSlot_of_not hds _, hr]
    exact links_setReg_setFlow s 31 _ (there (s.reg r))
  case jrc =>
    rw [show exec (.jrc (.rx rx)) s = _ from outsideSlot_of_not hds _, hr]
    exact moves_setFlow s (there (s.reg r))
  case jrcRa =>
    rw [show exec (.jrc .ra) s = _ from outsideSlot_of_not hds _]
    exact moves_setFlow s (there (s.reg 31))

/-! ## SAVE as a list of stores -/

/-- The stores of SAVE, one below the other from `a` down, and what follows them. -/
def pushAll : List Reg → Word → State → (State → Out) → Out
  | [], _, s, k => k s
  | r :: rs, a, s, k => attempt (s.memWrite (a - 4) 4 (s.reg r)) s fun u => pushAll rs (a - 4) u k

theorem execSave_eq (ra s0 s1 : Bool) (n : BitVec 4) (s : State) :
    exec (.save ra s0 s1 n) s =
      pushAll (frameRegisters ra s0 s1) (s.reg 29) s fun u => retire16 2 (u.setReg 29 (s.reg 29 - frameBytes n)) := by
  cases ra <;> cases s0 <;> cases s1 <;> rfl

/-- The state after the stores of SAVE to granted places, one below the other from `pa` down. -/
def State.pushed : List Reg → Nat → State → State
  | [], _, s => s
  | r :: rs, pa, s =>
    State.pushed rs (pa - 4) (s.storeBytes (pa - 4) (inByteOrder s.bigEndian (splitBytes (s.reg r) 4)))

/-- The stores change memory and the record of stores and nothing else. -/
theorem State.pushed_eq (rs : List Reg) (pa : Nat) (s : State) :
    s.pushed rs pa = { s with
      mem := (s.pushed rs pa).mem, hz := { s.hz with staleText := (s.pushed rs pa).hz.staleText } } := by
  induction rs generalizing pa s with
  | nil => rfl
  | cons r rs ih => rw [State.pushed, ih]; rfl

section
variable (rs : List Reg) (pa : Nat) (s : State)

theorem State.pushed_regs : (s.pushed rs pa).regs = s.regs := by rw [s.pushed_eq]
theorem State.pushed_cp0 : (s.pushed rs pa).cp0 = s.cp0 := by rw [s.pushed_eq]
theorem State.pushed_flow : (s.pushed rs pa).flow = s.flow := by rw [s.pushed_eq]
theorem State.pushed_hazard : (s.pushed rs pa).hz.hazard = s.hz.hazard := by rw [s.pushed_eq]
theorem State.pushed_ihazard : (s.pushed rs pa).hz.ihazard = s.hz.ihazard := by rw [s.pushed_eq]
theorem State.pushed_sameHiLo : SameHiLo s (s.pushed rs pa) := by rw [s.pushed_eq]; exact ⟨rfl, rfl, rfl⟩
theorem State.pushed_sameLink : SameLink s (s.pushed rs pa) := by rw [s.pushed_eq]; exact ⟨rfl, rfl⟩
theorem State.pushed_sameSystem : SameSystem s (s.pushed rs pa) := by
  rw [s.pushed_eq]; exact ⟨rfl, rfl, rfl, rfl, rfl, rfl, rfl⟩

end

/-- A word that a store has just written. -/
theorem State.wordAt_storeBytes {s : State} (hwf : s.mem.wf = true) {pa : Nat} (hpa : pa + 4 ≤ 4294967296) (v : Word) :
    (s.storeBytes pa (inByteOrder s.bigEndian (splitBytes v 4))).wordAt pa = v := by
  have hload := State.loadBytes_storeBytes hwf (pa := pa) (splitBytes v 4) hpa
  rw [splitBytes_length, State.loadBytes_four, joinBytes_splitBytes v (by omega)] at hload
  exact hload.trans BitVec.and_allOnes

theorem State.wordAt_congr {s t : State} (hc : t.cp0.config = s.cp0.config) {pa : Nat}
    (hm : ∀ a, pa ≤ a → a < pa + 4 → readByte t.mem a = readByte s.mem a) : t.wordAt pa = s.wordAt pa := by
  have hbe : t.bigEndian = s.bigEndian := congrArg (bit · 15) hc
  simp only [State.wordAt, hbe, hm pa (by omega) (by omega), hm (pa + 1) (by omega) (by omega),
    hm (pa + 2) (by omega) (by omega), hm (pa + 3) (by omega) (by omega)]

/-- What the stores of SAVE leave in memory. -/
theorem State.pushed_memory (rs : List Reg) : ∀ {pa : Nat} {s : State}, s.mem.wf = true → 4 * rs.length ≤ pa →
    (0 < rs.length → pa ≤ 4294967296) →
    SameMemoryOutside s (s.pushed rs pa) (pa - 4 * rs.length) (4 * rs.length) ∧
      ∀ k (h : k < rs.length), (s.pushed rs pa).wordAt (pa - 4 * (k + 1)) = s.reg rs[k] := by
  induction rs with
  | nil => exact fun _ _ _ => ⟨fun _ _ => rfl, fun k h => absurd h (Nat.not_lt_zero k)⟩
  | cons r rs ih =>
    intro pa s hwf hlow hhigh
    rw [List.length_cons] at hlow
    have hpa : pa ≤ 4294967296 := hhigh (Nat.succ_pos _)
    obtain ⟨u, hu⟩ : ∃ u, u = s.storeBytes (pa - 4) (inByteOrder s.bigEndian (splitBytes (s.reg r) 4)) := ⟨_, rfl⟩
    have hlen : (inByteOrder s.bigEndian (splitBytes (s.reg r) 4)).length = 4 := inByteOrder_length _ _
    have hbound : pa - 4 + (inByteOrder s.bigEndian (splitBytes (s.reg r) 4)).length ≤ 4294967296 := by rw [hlen]; omega
    have hu_wf : u.mem.wf = true := hu ▸ State.storeBytes_wf hwf hbound
    have hu_outside : SameMemoryOutside s u (pa - 4) 4 := by
      have houtside := storeBytes_outside hwf hbound
      rwa [hlen, ← hu] at houtside
    have hu_word : u.wordAt (pa - 4) = s.reg r := hu ▸ State.wordAt_storeBytes hwf (by omega) _
    have hu_reg : ∀ i, u.reg i = s.reg i := fun i => State.reg_congr (by rw [hu]; rfl) (by rw [hu]; rfl) i
    have hpushed : s.pushed (r :: rs) pa = u.pushed rs (pa - 4) := by rw [hu]; rfl
    obtain ⟨hmem, hwords⟩ := ih (pa := pa - 4) hu_wf (by omega) fun _ => by omega
    rw [hpushed]
    refine ⟨fun a ha => ?outside, fun k hk => ?word⟩
    case outside =>
      rw [List.length_cons] at ha
      rw [hmem a (by omega), hu_outside a (by omega)]
    case word =>
      cases k with
      | zero =>
        have hkept : (u.pushed rs (pa - 4)).wordAt (pa - 4) = u.wordAt (pa - 4) :=
          State.wordAt_congr (by rw [u.pushed_cp0]) fun a h1 h2 => hmem a (by omega)
        exact hkept.trans hu_word
      | succ k =>
        have hk' : k < rs.length := Nat.lt_of_succ_lt_succ hk
        have hword := hwords k hk'
        rw [show pa - 4 - 4 * (k + 1) = pa - 4 * (k + 1 + 1) by omega, hu_reg] at hword
        exact hword

theorem sub_four_sub (a : Word) (k : Nat) : a - 4 - BitVec.ofNat 32 (4 * k) = a - BitVec.ofNat 32 (4 * (k + 1)) := by
  rw [Nat.mul_add, BitVec.ofNat_add]
  bv_omega

theorem sub_four_aligned {a : Word} (h : a.toNat % 4 = 0) : (a - 4).toNat % 4 = 0 := by
  bv_omega

/-- The stores of SAVE as far as their places are granted. -/
theorem pushAll_granted (j : Nat) : ∀ {rs : List Reg} {a : Word} {pa : Nat} {s : State}, a.toNat % 4 = 0 →
    j ≤ rs.length →
    (∀ k, k < j → s.place .store (a - BitVec.ofNat 32 (4 * (k + 1))) 4 = .ok (pa - 4 * (k + 1))) → ∀ k,
      pushAll rs a s k = pushAll (rs.drop j) (a - BitVec.ofNat 32 (4 * j)) (s.pushed (rs.take j) pa) k := by
  induction j with
  | zero => intro rs a pa s _ _ _ k; rw [Nat.mul_zero, BitVec.sub_zero]; rfl
  | succ j ih =>
    intro rs a pa s ha hj hplace k
    cases rs with
    | nil => exact absurd hj (Nat.not_succ_le_zero j)
    | cons r rs =>
      have hfirst : s.memWrite (a - 4) 4 (s.reg r) =
          .ok (s.storeBytes (pa - 4) (inByteOrder s.bigEndian (splitBytes (s.reg r) 4))) :=
        State.memWrite_of_place ((aligned_iff _ 4).mpr (sub_four_aligned ha)) (hplace 0 (Nat.succ_pos j))
      rw [pushAll, hfirst, attempt, ih (rs := rs) (pa := pa - 4) (sub_four_aligned ha) (Nat.le_of_succ_le_succ hj),
        sub_four_sub]
      · rfl
      · intro i hi
        rw [sub_four_sub, show pa - 4 - 4 * (i + 1) = pa - 4 * (i + 1 + 1) by omega, ← hplace (i + 1) (by omega)]
        exact State.place_congr rfl rfl rfl rfl rfl rfl rfl _ _ _

/-- A store of SAVE whose place is not granted. -/
theorem pushAll_stops {rs : List Reg} {a : Word} {s : State} {x : Stop} (hrs : rs ≠ [])
    (h : ∀ v, s.memWrite (a - 4) 4 v = .error x) (k : State → Out) : pushAll rs a s k = x.take s := by
  cases rs with
  | nil => exact absurd rfl hrs
  | cons r rs => rw [pushAll, h]; rfl

/-! ## RESTORE as a list of loads -/

/-- The loads of RESTORE, one below the other from `a` down, and what follows them. -/
def popAll : List Reg → Word → State → (State → Out) → Out
  | [], _, s, k => k s
  | r :: rs, a, s, k => attempt (s.memRead (a - 4) 4) s fun v => popAll rs (a - 4) (s.setReg r v) k

theorem execRestore_eq (ra s0 s1 : Bool) (n : BitVec 4) (s : State) :
    exec (.restore ra s0 s1 n) s =
      popAll (frameRegisters ra s0 s1) (s.reg 29 + frameBytes n) s fun u =>
        retire16 2 (u.setReg 29 (s.reg 29 + frameBytes n)) := by
  cases ra <;> cases s0 <;> cases s1 <;> rfl

/-- The state after the loads of RESTORE from granted places, one below the other from `pa` down. -/
def State.popped : List Reg → Nat → State → State
  | [], _, s => s
  | r :: rs, pa, s => State.popped rs (pa - 4) (s.setReg r (s.wordAt (pa - 4)))

/-- The loads change registers and nothing else. -/
theorem State.popped_eq (rs : List Reg) (pa : Nat) (s : State) :
    s.popped rs pa = { s with regs := (s.popped rs pa).regs } := by
  induction rs generalizing pa s with
  | nil => rfl
  | cons r rs ih =>
    rw [State.popped, ih, State.setReg, State.setSreg]
    split <;> rfl

section
variable (rs : List Reg) (pa : Nat) (s : State)

theorem State.popped_cp0 : (s.popped rs pa).cp0 = s.cp0 := by rw [s.popped_eq]
theorem State.popped_flow : (s.popped rs pa).flow = s.flow := by rw [s.popped_eq]
theorem State.popped_hz : (s.popped rs pa).hz = s.hz := by rw [s.popped_eq]
theorem State.popped_css : (s.popped rs pa).css = s.css := by rw [State.css, s.popped_cp0]; rfl
theorem State.popped_sameRest : SameRest s (s.popped rs pa) := by rw [s.popped_eq]; exact SameRest.refl s

end

/-- What the loads of RESTORE leave in the registers. -/
theorem State.popped_registers (rs : List Reg) : ∀ {pa : Nat} {s : State}, rs.Nodup → (0 : Reg) ∉ rs →
    (∀ set r, ¬(set = s.css ∧ r ∈ rs) → (s.popped rs pa).sreg set r = s.sreg set r) ∧
      ∀ k (h : k < rs.length), (s.popped rs pa).reg rs[k] = s.wordAt (pa - 4 * (k + 1)) := by
  induction rs with
  | nil => exact fun _ _ => ⟨fun _ _ _ => rfl, fun k h => absurd h (Nat.not_lt_zero k)⟩
  | cons r rs ih =>
    intro pa s hnodup hzero
    obtain ⟨hr, hrs⟩ := List.nodup_cons.mp hnodup
    obtain ⟨hr0, hrs0⟩ := not_or.mp (mt List.mem_cons.mpr hzero)
    obtain ⟨u, hu⟩ : ∃ u, u = s.setReg r (s.wordAt (pa - 4)) := ⟨_, rfl⟩
    have hcss : u.css = s.css := by rw [hu, State.css, State.setReg_cp0]; rfl
    have hword : ∀ a, u.wordAt a = s.wordAt a := fun a => by
      rw [hu]; exact State.wordAt_congr (by simp) fun _ _ _ => by simp
    have hpopped : s.popped (r :: rs) pa = u.popped rs (pa - 4) := by rw [hu]; rfl
    obtain ⟨hother, hloaded⟩ := ih (pa := pa - 4) (s := u) hrs hrs0
    rw [hpopped]
    refine ⟨fun set q h => ?other, fun k hk => ?loaded⟩
    case other =>
      rw [List.mem_cons] at h
      rw [hother set q fun h' => h ⟨hcss ▸ h'.1, .inr h'.2⟩, hu]
      exact s.sreg_setReg_other r _ set q fun h' => h ⟨h'.1, .inl h'.2⟩
    case loaded =>
      cases k with
      | zero =>
        have hkept : (u.popped rs (pa - 4)).reg r = u.reg r := by
          rw [State.reg, u.popped_css, hother _ _ fun h' => hr h'.2]; rfl
        exact hkept.trans (by rw [hu, s.reg_setReg_self, if_neg (Ne.symm hr0)])
      | succ k =>
        have hk' : k < rs.length := Nat.lt_of_succ_lt_succ hk
        have hload := hloaded k hk'
        rw [show pa - 4 - 4 * (k + 1) = pa - 4 * (k + 1 + 1) by omega, hword] at hload
        exact hload

/-- The loads of RESTORE as far as their places are granted. -/
theorem popAll_granted (j : Nat) : ∀ {rs : List Reg} {a : Word} {pa : Nat} {s : State}, a.toNat % 4 = 0 →
    j ≤ rs.length →
    (∀ k, k < j → s.place .load (a - BitVec.ofNat 32 (4 * (k + 1))) 4 = .ok (pa - 4 * (k + 1))) → ∀ k,
      popAll rs a s k = popAll (rs.drop j) (a - BitVec.ofNat 32 (4 * j)) (s.popped (rs.take j) pa) k := by
  induction j with
  | zero => intro rs a pa s _ _ _ k; rw [Nat.mul_zero, BitVec.sub_zero]; rfl
  | succ j ih =>
    intro rs a pa s ha hj hplace k
    cases rs with
    | nil => exact absurd hj (Nat.not_succ_le_zero j)
    | cons r rs =>
      have hfirst : s.memRead (a - 4) 4 = .ok (s.wordAt (pa - 4)) :=
        s.loadBytes_four (pa - 4) ▸
          State.memRead_of_place ((aligned_iff _ 4).mpr (sub_four_aligned ha)) (hplace 0 (Nat.succ_pos j))
      rw [popAll, hfirst, attempt, ih (rs := rs) (pa := pa - 4) (sub_four_aligned ha) (Nat.le_of_succ_le_succ hj),
        sub_four_sub]
      · rfl
      · intro i hi
        rw [sub_four_sub, show pa - 4 - 4 * (i + 1) = pa - 4 * (i + 1 + 1) by omega, ← hplace (i + 1) (by omega)]
        exact State.place_congr (by simp) (by simp) (by simp) (by simp) (by simp) (by simp) (by simp) _ _ _

/-- A load of RESTORE whose place is not granted. -/
theorem popAll_stops {rs : List Reg} {a : Word} {s : State} {x : Stop} (hrs : rs ≠ [])
    (h : s.memRead (a - 4) 4 = .error x) (k : State → Out) : popAll rs a s k = x.take s := by
  cases rs with
  | nil => exact absurd rfl hrs
  | cons r rs => rw [popAll, h]; rfl

/-! ## The frames -/

theorem frameRegisters_length (ra s0 s1 : Bool) : (frameRegisters ra s0 s1).length ≤ 3 := by
  cases ra <;> cases s0 <;> cases s1 <;> decide

theorem frameRegisters_nodup (ra s0 s1 : Bool) : (frameRegisters ra s0 s1).Nodup := by
  cases ra <;> cases s0 <;> cases s1 <;> decide

theorem zero_notMem_frameRegisters (ra s0 s1 : Bool) : (0 : Reg) ∉ frameRegisters ra s0 s1 := by
  cases ra <;> cases s0 <;> cases s1 <;> decide

theorem sp_notMem_frameRegisters (ra s0 s1 : Bool) : (29 : Reg) ∉ frameRegisters ra s0 s1 := by
  cases ra <;> cases s0 <;> cases s1 <;> decide

end Sys2Proof.Machine
end

section
/-! PROOFS. The statements on SAVE and RESTORE (47_mips16e_only.md section 4) and on the address errors (20_memory.md
R62, R65). -/

namespace Sys2Proof.Machine

/-! ## SAVE and RESTORE -/

section
variable {s t u : State}

theorem SameHiLo.trans (h : SameHiLo s t) (h' : SameHiLo t u) : SameHiLo s u :=
  ⟨h'.1.trans h.1, h'.2.1.trans h.2.1, h'.2.2.trans h.2.2⟩

theorem SameLink.trans (h : SameLink s t) (h' : SameLink t u) : SameLink s u := ⟨h'.1.trans h.1, h'.2.trans h.2⟩

theorem SamePlatform.trans (h : SamePlatform s t) (h' : SamePlatform t u) : SamePlatform s u :=
  ⟨h'.1.trans h.1, h'.2.1.trans h.2.1, h'.2.2.1.trans h.2.2.1, h'.2.2.2.1.trans h.2.2.2.1, h'.2.2.2.2.trans h.2.2.2.2⟩

theorem SameSystem.trans (h : SameSystem s t) (h' : SameSystem t u) : SameSystem s u :=
  ⟨h'.1.trans h.1, h'.2.1.trans h.2.1, SamePlatform.trans h.2.2 h'.2.2⟩

theorem SameRest.trans (h : SameRest s t) (h' : SameRest t u) : SameRest s u :=
  ⟨SameHiLo.trans h.1 h'.1, SameLink.trans h.2.1 h'.2.1, SameSystem.trans h.2.2.1 h'.2.2.1,
    fun a => (h'.2.2.2 a).trans (h.2.2.2 a)⟩

end

theorem add_aligned {a b : Word} (ha : a.toNat % 4 = 0) (hb : b.toNat % 4 = 0) : (a + b).toNat % 4 = 0 := by
  bv_omega

theorem frameBytes_aligned (n : BitVec 4) : (frameBytes n).toNat % 4 = 0 := by revert n; decide

theorem place_error_memWrite {s : State} {a : Word} {x : Stop} (ha : a.toNat % 4 = 0)
    (h : s.place .store a 4 = .error x) (v : Word) : s.memWrite a 4 v = .error x := by
  rw [State.memWrite, if_pos ((aligned_iff a 4).mpr ha), h]; rfl

theorem place_error_memRead {s : State} {a : Word} {x : Stop} (ha : a.toNat % 4 = 0)
    (h : s.place .load a 4 = .error x) : s.memRead a 4 = .error x := by
  rw [State.memRead, if_pos ((aligned_iff a 4).mpr ha), h]; rfl

theorem sub_ofNat_aligned {a : Word} (ha : a.toNat % 4 = 0) (j : Nat) :
    (a - BitVec.ofNat 32 (4 * j)).toNat % 4 = 0 := by
  rw [BitVec.toNat_sub, BitVec.toNat_ofNat]
  omega

theorem sub_ofNat_sub_four (a : Word) (j : Nat) :
    a - BitVec.ofNat 32 (4 * j) - 4 = a - BitVec.ofNat 32 (4 * (j + 1)) := by
  rw [Nat.mul_add, BitVec.ofNat_add]
  bv_omega

section
variable {s : State} {ra s0 s1 : Bool} {n : BitVec 4} {pa : Nat}

/-- SAVE to granted places. -/
theorem execSave_granted (ha : (s.reg 29).toNat % 4 = 0)
    (h : ∀ k, k < (frameRegisters ra s0 s1).length →
      s.place .store (s.reg 29 - BitVec.ofNat 32 (4 * (k + 1))) 4 = .ok (pa - 4 * (k + 1))) :
    exec (.save ra s0 s1 n) s =
      retire16 2 ((s.pushed (frameRegisters ra s0 s1) pa).setReg 29 (s.reg 29 - frameBytes n)) := by
  rw [execSave_eq, pushAll_granted _ ha (Nat.le_refl _) h, List.drop_length, List.take_length]; rfl

/-- RESTORE from granted places. -/
theorem execRestore_granted (ha : (s.reg 29 + frameBytes n).toNat % 4 = 0)
    (h : ∀ k, k < (frameRegisters ra s0 s1).length →
      s.place .load (s.reg 29 + frameBytes n - BitVec.ofNat 32 (4 * (k + 1))) 4 = .ok (pa - 4 * (k + 1))) :
    exec (.restore ra s0 s1 n) s =
      retire16 2 ((s.popped (frameRegisters ra s0 s1) pa).setReg 29 (s.reg 29 + frameBytes n)) := by
  rw [execRestore_eq, popAll_granted _ ha (Nat.le_refl _) h, List.drop_length, List.take_length]; rfl

/-- SAVE when its store number j stops. -/
theorem execSave_stops {j : Nat} {x : Stop} (ha : (s.reg 29).toNat % 4 = 0)
    (hj : j < (frameRegisters ra s0 s1).length)
    (h : ∀ k, k < j → s.place .store (s.reg 29 - BitVec.ofNat 32 (4 * (k + 1))) 4 = .ok (pa - 4 * (k + 1)))
    (hx : s.place .store (s.reg 29 - BitVec.ofNat 32 (4 * (j + 1))) 4 = .error x) :
    exec (.save ra s0 s1 n) s = x.take (s.pushed ((frameRegisters ra s0 s1).take j) pa) := by
  rw [execSave_eq, pushAll_granted j ha (Nat.le_of_lt hj) h]
  refine pushAll_stops (List.drop_eq_nil_iff.not.mpr (by omega)) (fun v => ?_) _
  refine place_error_memWrite (sub_four_aligned (sub_ofNat_aligned ha j)) ?_ v
  rw [sub_ofNat_sub_four, ← hx]
  have hsys := s.pushed_sameSystem ((frameRegisters ra s0 s1).take j) pa
  exact State.place_congr hsys.1 (s.pushed_hazard ..) (s.pushed_ihazard ..) hsys.2.2.2.1 hsys.2.2.1 hsys.2.2.2.2.2.1
    (s.pushed_sameLink ..).2 _ _ _

/-- RESTORE when its load number j stops. -/
theorem execRestore_stops {j : Nat} {x : Stop} (ha : (s.reg 29 + frameBytes n).toNat % 4 = 0)
    (hj : j < (frameRegisters ra s0 s1).length)
    (h : ∀ k, k < j →
      s.place .load (s.reg 29 + frameBytes n - BitVec.ofNat 32 (4 * (k + 1))) 4 = .ok (pa - 4 * (k + 1)))
    (hx : s.place .load (s.reg 29 + frameBytes n - BitVec.ofNat 32 (4 * (j + 1))) 4 = .error x) :
    exec (.restore ra s0 s1 n) s = x.take (s.popped ((frameRegisters ra s0 s1).take j) pa) := by
  rw [execRestore_eq, popAll_granted j ha (Nat.le_of_lt hj) h]
  refine popAll_stops (List.drop_eq_nil_iff.not.mpr (by omega)) ?_ _
  refine place_error_memRead (sub_four_aligned (sub_ofNat_aligned ha j)) ?_
  rw [sub_ofNat_sub_four, ← hx, s.popped_eq]
  exact State.place_congr rfl rfl rfl rfl rfl rfl rfl _ _ _

/-- The places of a frame lie in the physical address space. -/
theorem place_frame_bound {j : Nat} (ha : (s.reg 29).toNat % 4 = 0)
    (h : ∀ k, k < j → s.place .store (s.reg 29 - BitVec.ofNat 32 (4 * (k + 1))) 4 = .ok (pa - 4 * (k + 1))) :
    0 < j → pa ≤ 4294967296 := by
  intro hj
  have hbound := State.place_bound (h 0 hj) (by rw [sub_ofNat_aligned ha])
  omega

/-- What SAVE to granted places leaves. -/
theorem execSave_spec (hwf : s.mem.wf = true) (ha : (s.reg 29).toNat % 4 = 0) (hpa : 12 ≤ pa)
    (h : ∀ k, k < (frameRegisters ra s0 s1).length →
      s.place .store (s.reg 29 - BitVec.ofNat 32 (4 * (k + 1))) 4 = .ok (pa - 4 * (k + 1))) :
    ∃ t, exec (.save ra s0 s1 n) s = .next t ∧ t.reg 29 = s.reg 29 - frameBytes n ∧ OnlyRegister s t 29 ∧
      (∀ k (hk : k < (frameRegisters ra s0 s1).length),
        t.wordAt (pa - 4 * (k + 1)) = s.reg (frameRegisters ra s0 s1)[k]) ∧
      SameMemoryOutside s t (pa - 4 * (frameRegisters ra s0 s1).length) (4 * (frameRegisters ra s0 s1).length) ∧
      SameHiLo s t ∧ SameLink s t ∧ SameSystem s t ∧
      t.flow = ⟨s.flow.pc + 2, s.flow.pc + 2 + 2, s.flow.isaMode, false, s.flow.isaMode⟩ ∧
      t.hz.hazard = s.hz.hazard ∧ t.hz.ihazard = s.hz.ihazard := by
  have hexec := execSave_granted (n := n) ha h
  have hlen := frameRegisters_length ra s0 s1
  generalize frameRegisters ra s0 s1 = regs at h hexec hlen ⊢
  obtain ⟨hmem, hwords⟩ := State.pushed_memory regs hwf (by omega) (place_frame_bound ha h)
  have hcss : (s.pushed regs pa).css = s.css := by rw [State.css, s.pushed_cp0]; rfl
  obtain ⟨t, hnext, hflow, hreg, honly, ⟨hhilo, hlink, hsys, hsame⟩, hhz⟩ :=
    retire16_setReg (s.pushed regs pa) 29 (s.reg 29 - frameBytes n) 2
  refine ⟨t, hexec.trans hnext, hreg, fun set r hr => ?only, fun k hk => ?word,
    fun a hout => (hsame a).trans (hmem a hout), (s.pushed_sameHiLo regs pa).trans hhilo,
    (s.pushed_sameLink regs pa).trans hlink,
    (s.pushed_sameSystem regs pa).trans hsys, by rw [hflow, s.pushed_flow], by rw [hhz, s.pushed_hazard],
    by rw [hhz, s.pushed_ihazard]⟩
  case only => rw [honly set r (by rw [hcss]; exact hr), State.sreg_congr (s.pushed_regs regs pa)]
  case word => rw [State.wordAt_congr (by rw [hsys.1]) fun a _ _ => hsame a, hwords k hk]

/-- What RESTORE from granted places leaves. -/
theorem execRestore_spec (ha : (s.reg 29 + frameBytes n).toNat % 4 = 0)
    (h : ∀ k, k < (frameRegisters ra s0 s1).length →
      s.place .load (s.reg 29 + frameBytes n - BitVec.ofNat 32 (4 * (k + 1))) 4 = .ok (pa - 4 * (k + 1))) :
    ∃ t, exec (.restore ra s0 s1 n) s = .next t ∧ t.reg 29 = s.reg 29 + frameBytes n ∧
      (∀ k (hk : k < (frameRegisters ra s0 s1).length),
        t.reg (frameRegisters ra s0 s1)[k] = s.wordAt (pa - 4 * (k + 1))) ∧
      (∀ set r, ¬(set = s.css ∧ (r = 29 ∨ r ∈ frameRegisters ra s0 s1)) → t.sreg set r = s.sreg set r) ∧
      SameRest s t ∧ t.hz = s.hz ∧
      t.flow = ⟨s.flow.pc + 2, s.flow.pc + 2 + 2, s.flow.isaMode, false, s.flow.isaMode⟩ := by
  have hexec := execRestore_granted ha h
  have hsp := sp_notMem_frameRegisters ra s0 s1
  obtain ⟨hother, hloaded⟩ := State.popped_registers (frameRegisters ra s0 s1) (pa := pa) (s := s)
    (frameRegisters_nodup ra s0 s1) (zero_notMem_frameRegisters ra s0 s1)
  generalize frameRegisters ra s0 s1 = regs at h hexec hsp hother hloaded ⊢
  obtain ⟨t, hnext, hflow, hreg, honly, hrest, hhz⟩ :=
    retire16_setReg (s.popped regs pa) 29 (s.reg 29 + frameBytes n) 2
  have hcss : t.css = (s.popped regs pa).css := congrArg (fun c : Cp0 => field c.srsCtl 0 4) hrest.2.2.1.1
  rw [s.popped_css] at hcss
  refine ⟨t, hexec.trans hnext, hreg, fun k hk => ?loaded, fun set r hr => ?other,
    (s.popped_sameRest regs pa).trans hrest, by rw [hhz, s.popped_hz], by rw [hflow, s.popped_flow]⟩
  case loaded =>
    have hne : regs[k] ≠ 29 := fun h => hsp (h ▸ List.getElem_mem hk)
    rw [← hloaded k hk, State.reg, State.reg, hcss, s.popped_css]
    exact honly _ _ fun h => hne h.2
  case other =>
    rw [honly set r fun h' => hr ⟨h'.1.trans (s.popped_css regs pa), .inl h'.2⟩]
    exact hother set r fun h' => hr ⟨h'.1, .inr h'.2⟩

end

/-- Settles O52. -/
theorem saveFrame : Obligations.SaveFrame := by
  intro s ra s0 s1 n pa regs sp size after ha hpa
  have hsize : frameBytes n = size := frameBytes_eq n
  have hafter : after = ⟨s.flow.pc + 2, s.flow.pc + 2 + 2, s.flow.isaMode, false, s.flow.isaMode⟩ := by
    simp only [after, BitVec.add_assoc]; rfl
  have htop : (sp + frameBytes n).toNat % 4 = 0 := add_aligned ha (frameBytes_aligned n)
  have hlen : regs.length ≤ 3 := frameRegisters_length ra s0 s1
  have htake : ∀ j, j < regs.length → (regs.take j).length = j := fun j hj => by rw [List.length_take]; omega
  rw [hafter, ← hsize]
  refine ⟨fun hwf hplace => ?saves, fun hwf j x hj hplace hx => ?saveStops, fun hplace => execRestore_spec htop hplace,
    fun j x hj hplace hx => ?restoreStops⟩
  case saves =>
    obtain ⟨t, hnext, hreg, honly, hwords, hmem, hhilo, hlink, hsys, hflow, -⟩ := execSave_spec hwf ha hpa hplace
    exact ⟨t, hnext, hreg, honly, hwords, hmem, hhilo, hlink, hsys, hflow⟩
  case saveStops =>
    have hjlen := htake j hj
    obtain ⟨hmem, hwords⟩ := State.pushed_memory (regs.take j) (pa := pa) hwf (by omega)
      (by rw [hjlen]; exact place_frame_bound ha hplace)
    rw [hjlen] at hmem
    refine ⟨_, execSave_stops ha hj hplace hx, fun k hk hkj => ?word, hmem,
      fun set r => State.sreg_congr (s.pushed_regs ..) set r, s.pushed_sameHiLo .., s.pushed_sameLink ..,
      s.pushed_sameSystem .., s.pushed_flow ..⟩
    case word => rw [hwords k (by omega), List.getElem_take]
  case restoreStops =>
    have hjlen := htake j hj
    obtain ⟨hother, hloaded⟩ := State.popped_registers (regs.take j) (pa := pa) (s := s)
      ((frameRegisters_nodup ra s0 s1).sublist (List.take_sublist j regs))
      (fun h => zero_notMem_frameRegisters ra s0 s1 (List.mem_of_mem_take h))
    refine ⟨_, execRestore_stops htop hj hplace hx, fun k hk hkj => ?loaded, hother, s.popped_sameRest ..,
      s.popped_hz .., s.popped_flow ..⟩
    case loaded => rw [← hloaded k (by omega), List.getElem_take]

/-- Settles O53: RESTORE loads from the places that SAVE stored to, below the stack pointer that it raises again. -/
theorem restoreUndoesSave : Obligations.RestoreUndoesSave := by
  intro s t ra s0 s1 n pa hwf regs sp ha hpa hplace hsave
  obtain ⟨t', hnext, hreg, honly, hwords, -, hhilo, hlink, hsys, -, hhaz, hihaz⟩ :=
    execSave_spec (n := n) hwf ha hpa fun k hk => (hplace k hk).1
  obtain rfl : t' = t := Host.Outcome.next.inj (hnext.symm.trans hsave)
  obtain ⟨hcp0, -, hplatform, hport, -, hdraws, -⟩ := hsys
  have hcss : t'.css = s.css := by rw [State.css, hcp0]; rfl
  have htop : t'.reg 29 + frameBytes n = sp := by rw [hreg]; exact BitVec.sub_add_cancel ..
  have hload : ∀ k, k < regs.length →
      t'.place .load (t'.reg 29 + frameBytes n - BitVec.ofNat 32 (4 * (k + 1))) 4 = .ok (pa - 4 * (k + 1)) := by
    intro k hk
    rw [htop, ← (hplace k hk).2]
    exact State.place_congr hcp0 hhaz hihaz hport hplatform hdraws hlink.2 _ _ _
  obtain ⟨u, hunext, hureg, huloaded, huother, ⟨huhilo, hulink, husys, humem⟩, -, huflow⟩ :=
    execRestore_spec (by rw [htop]; exact ha) hload
  have hucss : u.css = s.css := by rw [← hcss]; exact congrArg (fun c : Cp0 => field c.srsCtl 0 4) husys.1
  refine ⟨u, hunext, fun set r => ?register, humem, huhilo, hulink, husys, huflow.trans ?flow⟩
  case flow => simp only [BitVec.add_assoc]; rfl
  case register =>
    by_cases hframe : set = s.css ∧ (r = 29 ∨ r ∈ regs)
    · obtain ⟨rfl, rfl | hr⟩ := hframe
      · rw [htop, State.reg, hucss] at hureg
        exact hureg
      · obtain ⟨k, hk, rfl⟩ := List.getElem_of_mem hr
        have hback : u.reg regs[k] = s.reg regs[k] := (huloaded k hk).trans (hwords k hk)
        rwa [State.reg, hucss] at hback
    · rw [huother set r (by rw [hcss]; exact hframe)]
      exact honly set r fun h => hframe ⟨h.1, .inl h.2⟩

/-! ## Address errors -/

section
variable {s : State} {va : Word}

/-- An access of user mode outside its segment. -/
def State.userForbidden (s : State) (va : Word) : Prop :=
  s.settled ∧ s.inDebug = false ∧ kernelMode s.cp0.status = false ∧ bit va 31 = true

theorem State.translate_of_userForbidden (h : s.userForbidden va) (kind : Access) : s.translate kind va = none := by
  obtain ⟨hset, hd, hk, htop⟩ := h
  exact (State.translate_settled hset kind va).trans (if_pos (by rw [State.userUnder_eq hd, hk, htop]; rfl))

theorem State.place_of_userForbidden (h : s.userForbidden va) (kind : Access) (n : Nat) :
    s.place kind va n = .error (.raise (addressError kind va)) :=
  State.place_of_forbidden (State.toDseg_of_not_debug h.2.1 kind va) (State.translate_of_userForbidden h kind) n

theorem State.memRead_addressError {n : Nat} (h : va.toNat % n ≠ 0 ∨ s.userForbidden va) :
    s.memRead va n = .error (.raise (.addressErrorLoad va)) := by
  rw [State.memRead]
  split
  next ha =>
    have huser := h.resolve_left (Classical.not_not.mpr ((aligned_iff va n).mp ha))
    rw [State.place_of_userForbidden huser .load]; rfl
  next => rfl

theorem State.memWrite_addressError {n : Nat} (h : va.toNat % n ≠ 0 ∨ s.userForbidden va) (v : Word) :
    s.memWrite va n v = .error (.raise (.addressErrorStore va)) := by
  rw [State.memWrite]
  split
  next ha =>
    have huser := h.resolve_left (Classical.not_not.mpr ((aligned_iff va n).mp ha))
    rw [State.place_of_userForbidden huser .store]; rfl
  next => rfl

theorem loadTo_addressError {n : Nat} (h : va.toNat % n ≠ 0 ∨ s.userForbidden va) (rt : Reg) (extend : Word → Word) :
    loadTo rt va n extend s = takeException (.addressErrorLoad va) s := by
  rw [loadTo, State.memRead_addressError h]; rfl

theorem storeFrom_addressError {n : Nat} (h : va.toNat % n ≠ 0 ∨ s.userForbidden va) (rt : Reg) :
    storeFrom rt va n s = takeException (.addressErrorStore va) s := by
  rw [storeFrom, State.memWrite_addressError h]; rfl

theorem execLl_addressError {rt base : Reg} {offset : Half} (hva : s.effectiveAddress base offset = va)
    (h : va.toNat % 4 ≠ 0 ∨ s.userForbidden va) :
    exec (.ll rt offset base) s = takeException (.addressErrorLoad va) s := by
  subst hva
  show execLl rt offset base s = _
  rw [execLl, State.memRead_addressError h]; rfl

theorem execSc_addressError {rt base : Reg} {offset : Half} (hva : s.effectiveAddress base offset = va)
    (h : va.toNat % 4 ≠ 0 ∨ s.userForbidden va) :
    exec (.sc rt offset base) s = takeException (.addressErrorStore va) s := by
  subst hva
  refine if_pos ?_
  rcases h with h | h
  · rw [Bool.eq_false_iff.mpr (mt (aligned_iff _ 4).mp h)]; rfl
  · rw [State.translate_of_userForbidden h]; simp

/-- The two parts of an unaligned access lie in the aligned word of its address. -/
theorem bit_alignWord_top (w : Word) : bit (alignWord w) 31 = bit w 31 := by
  rw [alignWord, bit_and, show bit 0xFFFFFFFC 31 = true by decide, Bool.and_true]

theorem State.placeUnaligned_addressError {start : Word} (h : s.userForbidden va) (hstart : bit start 31 = bit va 31)
    (kind : Access) (n : Nat) : s.placeUnaligned kind va start n = .error (.raise (addressError kind va)) := by
  obtain ⟨hset, hd, hk, htop⟩ := h
  rw [State.placeUnaligned, State.place_of_userForbidden ⟨hset, hd, hk, hstart.trans htop⟩]

end

/-- Settles O29. -/
theorem addressErrors : Obligations.AddressErrors := by
  refine ⟨?plain, ?compact⟩
  case plain =>
    intro s rt base offset ea load store
    have hload : ∀ i, exec i s = takeException (.addressErrorLoad ea) s → load i := fun i h =>
      ⟨h, fun hready => h ▸ takeException_enters (e := .addressErrorLoad ea) hready (by simp) (by simp)⟩
    have hstore : ∀ i, exec i s = takeException (.addressErrorStore ea) s → store i := fun i h =>
      ⟨h, fun hready => h ▸ takeException_enters (e := .addressErrorStore ea) hready (by simp) (by simp)⟩
    refine ⟨fun h => ?half, fun h => ?word, fun hset hd hk htop => ?user⟩
    case half =>
      exact ⟨hload _ (loadTo_addressError (.inl h) _ _), hload _ (loadTo_addressError (.inl h) _ _),
        hstore _ (storeFrom_addressError (.inl h) _)⟩
    case word =>
      exact ⟨hload _ (loadTo_addressError (.inl h) _ _), hload _ (execLl_addressError rfl (.inl h)),
        hstore _ (storeFrom_addressError (.inl h) _), hstore _ (execSc_addressError rfl (.inl h))⟩
    case user =>
      have huser : s.userForbidden ea := ⟨hset, hd, hk, htop⟩
      have hleft : bit (leftStart s.bigEndian ea) 31 = bit ea 31 := by
        rw [leftStart]; split
        · rfl
        · exact bit_alignWord_top ea
      have hright : bit (rightStart s.bigEndian ea) 31 = bit ea 31 := by
        rw [rightStart]; split
        · exact bit_alignWord_top ea
        · rfl
      have hparts : ∀ kind start n (k : Nat → Out), bit start 31 = bit ea 31 →
          attempt (s.placeUnaligned kind ea start n) s k = takeException (addressError kind ea) s :=
        fun kind start n k h => by rw [State.placeUnaligned_addressError huser h]; rfl
      simp only [List.forall_mem_cons, List.not_mem_nil, false_imp_iff, implies_true, and_true]
      refine ⟨⟨?_, ?_, ?_, ?_, ?_, ?_, ?_, ?_⟩, ?_, ?_, ?_, ?_, ?_, ?_⟩
      · exact hload _ (loadTo_addressError (.inr huser) _ _)
      · exact hload _ (loadTo_addressError (.inr huser) _ _)
      · exact hload _ (loadTo_addressError (.inr huser) _ _)
      · exact hload _ (loadTo_addressError (.inr huser) _ _)
      · exact hload _ (loadTo_addressError (.inr huser) _ _)
      · exact hload _ (hparts .load _ _ _ hleft)
      · exact hload _ (hparts .load _ _ _ hright)
      · exact hload _ (execLl_addressError rfl (.inr huser))
      · exact hstore _ (storeFrom_addressError (.inr huser) _)
      · exact hstore _ (storeFrom_addressError (.inr huser) _)
      · exact hstore _ (storeFrom_addressError (.inr huser) _)
      · exact hstore _ (hparts .store _ _ _ hleft)
      · exact hstore _ (hparts .store _ _ _ hright)
      · exact hstore _ (execSc_addressError rfl (.inr huser))
  case compact =>
    intro s rx imm ra s0 s1 n wrong raises a below top
    refine ⟨fun h => ?lwpc, fun hregs => ⟨fun h => ?save, fun h => ?restore⟩⟩
    case lwpc =>
      have ha : s.basePc + pcDisplacement imm = a := congrArg (s.basePc + ·) (pcDisplacement_eq imm)
      have hexec : exec (.lwpc rx imm) s = takeException (.addressErrorLoad a) s := by
        show execLwpc rx imm s = _
        rw [execLwpc, ha, State.memRead_addressError h]; rfl
      exact ⟨hexec, fun hready => hexec ▸ takeException_enters (e := .addressErrorLoad a) hready (by simp) (by simp)⟩
    case save =>
      have hexec : exec (.save ra s0 s1 n) s = takeException (.addressErrorStore below) s :=
        (execSave_eq ..).trans (pushAll_stops hregs (fun v => State.memWrite_addressError h v) _)
      exact ⟨hexec, fun hready =>
        hexec ▸ takeException_enters (e := .addressErrorStore below) hready (by simp) (by simp)⟩
    case restore =>
      have htop : s.reg 29 + frameBytes n - 4 = top := by rw [frameBytes_eq]
      have hread : s.memRead (s.reg 29 + frameBytes n - 4) 4 = .error (.raise (.addressErrorLoad top)) := by
        rw [htop]; exact State.memRead_addressError h
      have hexec : exec (.restore ra s0 s1 n) s = takeException (.addressErrorLoad top) s :=
        (execRestore_eq ..).trans (popAll_stops hregs hread _)
      exact ⟨hexec, fun hready => hexec ▸ takeException_enters (e := .addressErrorLoad top) hready (by simp) (by simp)⟩

end Sys2Proof.Machine
end
